-- ==== Sys2Proof/Word.lean ====
section
/-! DEFINITION. The machine word of ISA12 (spec/00_scope.md R5, R8): 12 bits, two's complement where a rule reads a sign. -/

namespace Sys2Proof

/-- A 12-bit word: a register value, a memory word, an address, a pc value or an instruction word (R5, R8). -/
abbrev Word := BitVec 12

/-- A 3-bit signed field of an instruction, `imm3` or `off3`, range -4..+3 (R61, R66, R67). -/
abbrev Imm3 := BitVec 3

/-- The 9-bit signed field of the optional JEXT, range -256..+255 (R65, R67). -/
abbrev Off9 := BitVec 9

end Sys2Proof
end

