-- ==== Sys2Proof/Syntax.lean ====
section
/-! DEFINITION. The instructions of ISA12, one constructor per row of spec/opcode_table.json (spec/30_encoding.md R60). -/

namespace Sys2Proof

/-- The four general registers, selected by a 2-bit index (spec/10_state.md R20). -/
inductive Reg where
  | r0 | r1 | r2 | r3
deriving DecidableEq, Repr

/-- The closed instruction list of R60, with the optional JEXT (R65). Operands stand in assembler order (R77). An
immediate is the signed field itself, so a value outside its range cannot be written (R66, R67). -/
inductive Instr where
  /-- `ADD rd, rs, rt` (R101). -/
  | add (rd rs rt : Reg)
  /-- `SUB rd, rs, rt` (R102). -/
  | sub (rd rs rt : Reg)
  /-- `AND rd, rs, rt` (R103). -/
  | and (rd rs rt : Reg)
  /-- `OR rd, rs, rt` (R104). -/
  | or (rd rs rt : Reg)
  /-- `XOR rd, rs, rt` (R105). -/
  | xor (rd rs rt : Reg)
  /-- `SHL rd, rs, rt` (R106). -/
  | shl (rd rs rt : Reg)
  /-- `SHR rd, rs, rt` (R107). -/
  | shr (rd rs rt : Reg)
  /-- `NOP` (R108): no operand, its low six bits are ignored. -/
  | nop
  /-- `ADDI rd, rs, imm3` (R121). -/
  | addi (rd rs : Reg) (imm : Imm3)
  /-- `SUBI rd, rs, imm3` (R122). -/
  | subi (rd rs : Reg) (imm : Imm3)
  /-- `LD rd, [rs + imm3]` (R131): `rs` is the base. -/
  | ld (rd rs : Reg) (imm : Imm3)
  /-- `STR rt, [rs + imm3]` (R132): `rt` is stored, `rs` is the base. -/
  | str (rt rs : Reg) (imm : Imm3)
  /-- `BEQ rs, rt, off3` (R141). -/
  | beq (rs rt : Reg) (off : Imm3)
  /-- `BNE rs, rt, off3`, also spelled BNQ (R142, R81). -/
  | bne (rs rt : Reg) (off : Imm3)
  /-- `JEXT off9`, the optional long jump (R148). -/
  | jext (off : Off9)
deriving DecidableEq, Repr

end Sys2Proof
end

