-- ==== Sys2Proof/Decode.lean ====
section
/-! DEFINITION. Decoding and encoding of the 12-bit instruction word (spec/30_encoding.md R60 to R76): a total decoder that
rejects by name, then the encoder, then the opcode table's match and mask of each instruction. -/

namespace Sys2Proof

/-- The register with a 2-bit index (R20). -/
def Reg.ofBits (b : BitVec 2) : Reg :=
  match b with
  | 0b00#2 => .r0
  | 0b01#2 => .r1
  | 0b10#2 => .r2
  | _ => .r3

/-- The 2-bit index of a register (R20). -/
def Reg.bits : Reg → BitVec 2
  | .r0 => 0b00#2
  | .r1 => 0b01#2
  | .r2 => 0b10#2
  | .r3 => 0b11#2

/-- Bits [11:9] of an instruction word (R61). -/
def fieldOp (w : Word) : BitVec 3 := w.extractLsb' 9 3

/-- Bits [8:6]: `funct3`, `imm3` or `off3` (R61). -/
def fieldF (w : Word) : BitVec 3 := w.extractLsb' 6 3

/-- Bits [5:4]: the `rd` index (R61). -/
def fieldD (w : Word) : BitVec 2 := w.extractLsb' 4 2

/-- Bits [3:2]: the `rs` index (R61). -/
def fieldS (w : Word) : BitVec 2 := w.extractLsb' 2 2

/-- Bits [1:0]: the `rt` index (R61). -/
def fieldT (w : Word) : BitVec 2 := w.extractLsb' 0 2

/-- Bit [5] of a short J-type word: the condition, 0 for BEQ and 1 for BNE (R61, R70). -/
def fieldCond (w : Word) : BitVec 1 := w.extractLsb' 5 1

/-- Bit [4] of a short J-type word: the pad (R61, R71). -/
def fieldPad (w : Word) : BitVec 1 := w.extractLsb' 4 1

/-- Bits [8:0]: the offset of JEXT (R65). -/
def fieldOff9 (w : Word) : Off9 := w.extractLsb' 0 9

/-- Why a word is no instruction (`Illegal` of R75). All of them end in the one model fault IllegalInstruction (R182). -/
inductive Illegal where
  /-- Bits [1:0] of an ADDI, SUBI or LD word are not `00` (R72). -/
  | reservedRt
  /-- Bits [5:4] of a STR word are not `00` (R72). -/
  | reservedRd
  /-- Bit [4] of a BEQ or BNE word is `1` (R72). -/
  | reservedPad
  /-- Opcode `110` (R73). -/
  | opcode110
  /-- Opcode `111` while `JEXT_ENABLED` is false (R73). -/
  | opcode111
deriving DecidableEq, Repr

/-- The R-type instruction of a word with opcode `000`, by funct3 (R62, R69). -/
def decodeR (w : Word) : Instr :=
  let rd := Reg.ofBits (fieldD w)
  let rs := Reg.ofBits (fieldS w)
  let rt := Reg.ofBits (fieldT w)
  match fieldF w with
  | 0b000#3 => .add rd rs rt
  | 0b001#3 => .sub rd rs rt
  | 0b010#3 => .and rd rs rt
  | 0b011#3 => .or rd rs rt
  | 0b100#3 => .xor rd rs rt
  | 0b101#3 => .shl rd rs rt
  | 0b110#3 => .shr rd rs rt
  | _ => .nop

/-- An I-type word whose `rt` field must be `00`: ADDI, SUBI, LD (R63, R72). -/
def decodeI (mk : Reg → Reg → Imm3 → Instr) (w : Word) : Except Illegal Instr :=
  if fieldT w = 0b00#2 then .ok (mk (Reg.ofBits (fieldD w)) (Reg.ofBits (fieldS w)) (fieldF w))
  else .error .reservedRt

/-- A STR word, whose `rd` field must be `00` (R63, R72). -/
def decodeStr (w : Word) : Except Illegal Instr :=
  if fieldD w = 0b00#2 then .ok (.str (Reg.ofBits (fieldT w)) (Reg.ofBits (fieldS w)) (fieldF w))
  else .error .reservedRd

/-- A short J-type word, whose pad must be `0`; the condition bit chooses BEQ or BNE (R64, R70, R72). -/
def decodeJ (w : Word) : Except Illegal Instr :=
  if fieldPad w = 0b0#1 then
    if fieldCond w = 0b0#1 then .ok (.beq (Reg.ofBits (fieldS w)) (Reg.ofBits (fieldT w)) (fieldF w))
    else .ok (.bne (Reg.ofBits (fieldS w)) (Reg.ofBits (fieldT w)) (fieldF w))
  else .error .reservedPad

/-- The total decode function of R75; `jext` is the parameter `JEXT_ENABLED`. -/
def decode (jext : Bool) (w : Word) : Except Illegal Instr :=
  match fieldOp w with
  | 0b000#3 => .ok (decodeR w)
  | 0b001#3 => decodeI .addi w
  | 0b010#3 => decodeI .subi w
  | 0b011#3 => decodeI .ld w
  | 0b100#3 => decodeStr w
  | 0b101#3 => decodeJ w
  | 0b110#3 => .error .opcode110
  | _ => if jext then .ok (.jext (fieldOff9 w)) else .error .opcode111

/-- The decoder as the host asks for it: the word has its 12 bits in `w`, bit 0 least significant, and JEXT_ENABLED is
true, because the opcode table lists the optional row JEXT (log entry 6). An instruction is one word of 12 bits (R60), so
a number of more than 12 bits is none. -/
def decodeTableWord (_nbits w : Nat) : Option Instr :=
  if w < 4096 then (decode true (BitVec.ofNat 12 w)).toOption else none

/-- The R-type format `000 funct3 rd rs rt` (R62). -/
def encR (f : BitVec 3) (rd rs rt : Reg) : Word := 0b000#3 ++ f ++ rd.bits ++ rs.bits ++ rt.bits

/-- The I-type format `opcode imm3 rd rs rt` (R63). -/
def encI (op : BitVec 3) (imm : Imm3) (rd rs rt : Reg) : Word := op ++ imm ++ rd.bits ++ rs.bits ++ rt.bits

/-- The short J-type format `101 off3 cond 0 rs rt` (R64). -/
def encJ (cond : BitVec 1) (off : Imm3) (rs rt : Reg) : Word :=
  0b101#3 ++ off ++ cond ++ 0b0#1 ++ rs.bits ++ rt.bits

/-- The Jext format `111 off9` (R65). -/
def encX (off : Off9) : Word := 0b111#3 ++ off

/-- The word of an instruction (R76); unused bits are 0 as R71 requires, and NOP is the canonical `0x1C0`. -/
def encode : Instr → Word
  | .add rd rs rt => encR 0b000#3 rd rs rt
  | .sub rd rs rt => encR 0b001#3 rd rs rt
  | .and rd rs rt => encR 0b010#3 rd rs rt
  | .or rd rs rt => encR 0b011#3 rd rs rt
  | .xor rd rs rt => encR 0b100#3 rd rs rt
  | .shl rd rs rt => encR 0b101#3 rd rs rt
  | .shr rd rs rt => encR 0b110#3 rd rs rt
  | .nop => encR 0b111#3 .r0 .r0 .r0
  | .addi rd rs imm => encI 0b001#3 imm rd rs .r0
  | .subi rd rs imm => encI 0b010#3 imm rd rs .r0
  | .ld rd rs imm => encI 0b011#3 imm rd rs .r0
  | .str rt rs imm => encI 0b100#3 imm .r0 rs rt
  | .beq rs rt off => encJ 0b0#1 off rs rt
  | .bne rs rt off => encJ 0b1#1 off rs rt
  | .jext off => encX off

/-- The "mask" column of spec/opcode_table.json: the bits that tell the row's instruction apart. -/
def Instr.tableMask : Instr → Word
  | .add _ _ _ => 0xFC0#12
  | .sub _ _ _ => 0xFC0#12
  | .and _ _ _ => 0xFC0#12
  | .or _ _ _ => 0xFC0#12
  | .xor _ _ _ => 0xFC0#12
  | .shl _ _ _ => 0xFC0#12
  | .shr _ _ _ => 0xFC0#12
  | .nop => 0xFC0#12
  | .addi _ _ _ => 0xE03#12
  | .subi _ _ _ => 0xE03#12
  | .ld _ _ _ => 0xE03#12
  | .str _ _ _ => 0xE30#12
  | .beq _ _ _ => 0xE30#12
  | .bne _ _ _ => 0xE30#12
  | .jext _ => 0xE00#12

/-- The "match" column of spec/opcode_table.json: the value of the masked bits. -/
def Instr.tableMatch : Instr → Word
  | .add _ _ _ => 0x000#12
  | .sub _ _ _ => 0x040#12
  | .and _ _ _ => 0x080#12
  | .or _ _ _ => 0x0C0#12
  | .xor _ _ _ => 0x100#12
  | .shl _ _ _ => 0x140#12
  | .shr _ _ _ => 0x180#12
  | .nop => 0x1C0#12
  | .addi _ _ _ => 0x200#12
  | .subi _ _ _ => 0x400#12
  | .ld _ _ _ => 0x600#12
  | .str _ _ _ => 0x800#12
  | .beq _ _ _ => 0xA00#12
  | .bne _ _ _ => 0xA20#12
  | .jext _ => 0xE00#12

end Sys2Proof
end

