-- ==== Sys2Proof/Config.lean ====
section
/-! DEFINITION. The implementation parameters of spec/00_scope.md R6, as plain data: the source leaves them open, the spec
gives each a default. They are fixed before the first step and no instruction changes them (R208). -/

namespace Sys2Proof

/-- `SHR_FILL` (R6, R107, decision D5): what SHR shifts in at bit 11. DEDUCED (log entry 9): the reading of value 1
as the arithmetic shift comes from the "arithmetic variant" rows T33 to T37 of spec/95_test_vectors.md. -/
inductive ShrFill where
  /-- `SHR_FILL = 0`: zeros enter, the logical shift the spec takes. -/
  | zero
  /-- `SHR_FILL = 1`: copies of bit 11 enter, the arithmetic shift. -/
  | sign
deriving DecidableEq, Repr

/-- The parameters a model is instantiated with (R6). `PC_BITS = 12` is the width of `Word`, and `WORD_PACKING` is
observable by no program (R47). -/
structure Config where
  /-- `IMEM_WORDS`: instruction memory has the addresses 0 .. IMEM_WORDS-1 (R41, D2). -/
  imemWords : Nat
  /-- `DMEM_WORDS`: data memory has the addresses 0 .. DMEM_WORDS-1 (R45, D3). -/
  dmemWords : Nat
  /-- `JEXT_ENABLED`: whether opcode `111` is the long jump JEXT (R65, R148, D11). -/
  jextEnabled : Bool
  /-- `SHR_FILL`: the bit SHR shifts in (R107, D5). -/
  shrFill : ShrFill
deriving DecidableEq, Repr

/-- The values R6 takes: 4096 words in each memory, no JEXT, logical SHR. -/
def Config.default : Config :=
  { imemWords := 4096, dmemWords := 4096, jextEnabled := false, shrFill := .zero }

/-- Both memories fit the 12-bit address space (R24, R45: addresses are 0 .. 4095). -/
abbrev Config.wf (c : Config) : Prop := c.imemWords ≤ 4096 ∧ c.dmemWords ≤ 4096

/-- `RESET_PC` (R200, decision D12): execution starts at instruction address 0. -/
def Config.resetPc : Word := 0x000#12

end Sys2Proof
end

