-- ==== Sys2Proof/Machine/State.lean ====
section
/-! DEFINITION. The state of ISA12 (spec/10_state.md R31), the reasons a step can stop, and the state after reset
(spec/70_reset_and_hazards.md R200 to R203). -/

namespace Sys2Proof.Machine

/-- One memory: 12-bit words at word addresses (R30, R47), listed by rising address. An address that is not listed reads
as `0x000`, and no listed word is `0x000` (log entries 2, 3 and 4). -/
abbrev Memory := List (Nat × Word)

/-- The complete state: the tuple (x[1], x[2], x[3], pc, DMEM) with the constant IMEM (R31), and the parameters the
model is instantiated with (R6, log entry 5). R0 has no storage: it is the constant zero (R21, R31). -/
structure State where
  /-- General register R1 (R20, R22). -/
  r1 : Word
  /-- General register R2 (R20, R22). -/
  r2 : Word
  /-- General register R3 (R20, R22). -/
  r3 : Word
  /-- The program counter: the word address, in instruction memory, of the instruction being executed (R24, R25). -/
  pc : Word
  /-- The instruction memory IMEM, which no instruction changes (R30, R41). -/
  imem : Memory
  /-- The data memory DMEM (R30, R43, R44). -/
  dmem : Memory
  /-- The implementation parameters, constant during a run (R6, R208). -/
  config : Config
deriving DecidableEq, Repr

/-- The model faults of spec/60_exceptions.md: outcomes of a step, no traps. The state at the fault is the state before
the step (R185), and the machine takes no further step. -/
inductive Fault where
  /-- `IllegalInstruction(pc, w)` (R182): raised by `step` when the fetched word decodes to no instruction, and by JEXT
  on a machine without it. Safe: where the circuit may execute something, the model stops. -/
  | illegalInstruction (pc w : Word)
  /-- `FetchOutOfRange(pc)` (R183): raised by `step` when `pc >= IMEM_WORDS`. Safe: the model stops. -/
  | fetchOutOfRange (pc : Word)
  /-- `DataAddressOutOfRange(pc, ea)` (R184): raised by LD and STR when `ea >= DMEM_WORDS`. Safe: the model stops. -/
  | dataAddressOutOfRange (pc ea : Word)
deriving DecidableEq, Repr

/-- The refusals. Every instruction of the table has a meaning, so no step ends in one. -/
inductive Refusal where
  /-- An arm of `exec` whose instruction has no meaning yet, by its mnemonic; no arm raises it. Safe. -/
  | notModelled (mnemonic : String)
deriving DecidableEq, Repr

/-- The state a run starts in (R200 to R203, R209): pc at `RESET_PC`, and everything the source leaves unspecified taken
as a launch parameter: `RESET_REGS` (R201), `IMEM_INIT` and `DMEM_INIT` (R202), and the configuration (R6). -/
def State.launch (c : Config) (x1 x2 x3 : Word) (imemInit dmemInit : Memory) : State :=
  { r1 := x1, r2 := x2, r3 := x3, pc := Config.resetPc, imem := imemInit, dmem := dmemInit, config := c }

/-- The machine right after reset: the launch with the default configuration, and for the launch parameters the values
log entries 1, 2 and 3 name. DESIGN CHOICE: R201 and R202 give R1, R2, R3 and the memories no value. -/
def State.reset : State := State.launch Config.default 0x000#12 0x000#12 0x000#12 [] []

end Sys2Proof.Machine
end

