-- ==== Sys2Proof/Machine/Ops.lean ====
section
/-! DEFINITION. The named operations over registers, pc and the two memories (the primitives of spec/00_scope.md R10).
ISA12 has no exception entry and no return from one (spec/60_exceptions.md R180, R186): "A model must not invent a vector
address, a cause register or a handler convention for this hardware." What stands here in their place is the one shared
data-memory access, which either succeeds or raises the model fault of R184. -/

namespace Sys2Proof.Machine

/-- The word at address `a`; an unlisted address reads as `0x000` (log entries 2 and 3). -/
def Memory.read : Memory → Nat → Word
  | [], _ => 0x000#12
  | (b, v) :: m, a => if b = a then v else Memory.read m a

/-- The memory without the entry of address `a`. -/
def Memory.erase (m : Memory) (a : Nat) : Memory := m.filter (fun c => c.1 ≠ a)

/-- The entry `(a, v)` put before the first listed address above `a`. -/
def Memory.insert (a : Nat) (v : Word) : Memory → Memory
  | [] => [(a, v)]
  | c :: m => if a < c.1 then (a, v) :: c :: m else c :: Memory.insert a v m

/-- The whole word at `a` replaced by `v`, no other address changed (R44). Writing `0x000` removes the entry, so that equal
memories are equal lists. -/
def Memory.write (m : Memory) (a : Nat) (v : Word) : Memory :=
  if v = 0x000#12 then m.erase a else Memory.insert a v (m.erase a)

/-- The canonical form: addresses strictly rising, no listed word equal to what an unlisted address reads as. -/
abbrev Memory.wf (m : Memory) : Prop :=
  m.Pairwise (fun c d => c.1 < d.1) ∧ ∀ c ∈ m, c.2 ≠ 0x000#12

/-- Every listed address is one of the memory's `n` words, 0 .. n-1 (R30). -/
abbrev Memory.within (m : Memory) (n : Nat) : Prop := ∀ c ∈ m, c.1 < n

/-- The memory that holds the words `ws` at the addresses from `base` upward: how a launch places a program or data
(R202). -/
def Memory.ofWords (base : Nat) : List Word → Memory
  | [] => []
  | w :: ws => Memory.write (Memory.ofWords (base + 1) ws) base w

/-- `x[r]`: the value of a general register; R0 reads 0 always (R10, R21). -/
def State.reg (s : State) : Reg → Word
  | .r0 => 0x000#12
  | .r1 => s.r1
  | .r2 => s.r2
  | .r3 => s.r3

/-- `x[r] <- v`: a write to R0 is discarded and changes no state (R10, R21). -/
def State.setReg (s : State) (r : Reg) (v : Word) : State :=
  match r with
  | .r0 => s
  | .r1 => { s with r1 := v }
  | .r2 => { s with r2 := v }
  | .r3 => { s with r3 := v }

/-- `pc <- target` (R10). -/
def State.setPc (s : State) (target : Word) : State := { s with pc := target }

/-- The address of the next instruction in sequence, `pc + 1` modulo 4096 (R25, R26). -/
def State.nextPc (s : State) : Word := s.pc + 1#12

/-- `pc <- pc + 1`: how every instruction but a taken branch and JEXT ends (R25). -/
def State.advance (s : State) : State := s.setPc s.nextPc

/-- The data memory replaced. -/
def State.setDmem (s : State) (m : Memory) : State := { s with dmem := m }

/-- The fetch `IMemRead(pc)` (R11, R41): the word at pc, none when `pc >= IMEM_WORDS` (R183). -/
def State.fetch (s : State) : Option Word :=
  if s.pc.toNat < s.config.imemWords then some (s.imem.read s.pc.toNat) else none

/-- The data-memory access of LD and STR at `ea`: the instruction goes on as `k` says when the address exists, and is the
model fault DataAddressOutOfRange(pc, ea), with no state change, when `ea >= DMEM_WORDS` (R135, R184). -/
def State.atData (s : State) (ea : Word) (k : State) : Host.Outcome State Fault Refusal :=
  if ea.toNat < s.config.dmemWords then .next k else .fault (.dataAddressOutOfRange s.pc ea)

/-- `MemRead(ea, 1)` (R43): the whole word, no side effect. -/
def State.memRead (s : State) (ea : Word) : Word := s.dmem.read ea.toNat

/-- `MemWrite(ea, 1, v)` (R44): the whole word at `ea`, nothing else. -/
def State.memWrite (s : State) (ea v : Word) : State := s.setDmem (s.dmem.write ea.toNat v)

end Sys2Proof.Machine
end

