-- ==== Sys2Proof/Machine/Operands.lean ====
section
/-! DEFINITION. The operand forms of ISA12: the sign extensions (spec/00_scope.md R9), the shift amount and the shifts
(spec/40_rtype_alu.md R106, R107), the one addressing mode (spec/42_load_store.md R130) and the branch target
(spec/43_branch.md R143, R148). -/

namespace Sys2Proof.Machine

/-- `sext_12` of a 3-bit field: bit 2 repeated in bits [11:3] (R9). -/
def sext3 (v : Imm3) : Word := v.signExtend 12

/-- `sext_12` of the 9-bit field of JEXT: bit 8 repeated in bits [11:9] (R9). -/
def sext9 (v : Off9) : Word := v.signExtend 12

/-- The shift amount `x[rt] & 0xF`, 0 .. 15; bits [11:4] are ignored (R106). -/
def shiftAmount (b : Word) : Nat := (b &&& 0x00F#12).toNat

/-- SHL: zeros enter at bit 0, bits past bit 11 are lost, so amounts 12 .. 15 give 0 (R106, D6). -/
def shiftLeft (a : Word) (n : Nat) : Word := a <<< n

/-- SHR: with `SHR_FILL = 0` zeros enter at bit 11 and amounts 12 .. 15 give 0 (R107, D5, D6); with `SHR_FILL = 1` copies
of bit 11 enter (log entry 9). -/
def shiftRight (fill : ShrFill) (a : Word) (n : Nat) : Word :=
  match fill with
  | .zero => a >>> n
  | .sign => a.sshiftRight n

/-- The effective address of LD and STR: base plus signed word offset, modulo 4096 (R130, R45). -/
def State.ea (s : State) (base : Reg) (imm : Imm3) : Word := s.reg base + sext3 imm

/-- The target of a taken BEQ or BNE: the offset counts from the next instruction (R143, conflict C5). -/
def State.branchTarget (s : State) (off : Imm3) : Word := s.nextPc + sext3 off

/-- The target of JEXT (R148, D11). -/
def State.jumpTarget (s : State) (off : Off9) : Word := s.nextPc + sext9 off

end Sys2Proof.Machine
end

