-- ==== Sys2Proof/Machine/Alu.lean ====
section
/-! DEFINITION. The R-type instructions (spec/40_rtype_alu.md): ADD, SUB, AND, OR, XOR, SHL, SHR, NOP. None touches data
memory, none can fault, and there is no flag to set (R100). -/

namespace Sys2Proof.Machine

/-- The common template of R100: read `x[rs]` and `x[rt]` from the old state, write the result to `x[rd]`, advance pc. -/
def execR (f : Word → Word → Word) (rd rs rt : Reg) (s : State) : Host.Outcome State Fault Refusal :=
  .next (s.setReg rd (f (s.reg rs) (s.reg rt))).advance

/-- ADD (R101). -/
def execAdd (rd rs rt : Reg) (s : State) : Host.Outcome State Fault Refusal :=
  execR (fun a b => a + b) rd rs rt s

/-- SUB (R102): the minuend is rs. -/
def execSub (rd rs rt : Reg) (s : State) : Host.Outcome State Fault Refusal :=
  execR (fun a b => a - b) rd rs rt s

/-- AND (R103). -/
def execAnd (rd rs rt : Reg) (s : State) : Host.Outcome State Fault Refusal :=
  execR (fun a b => a &&& b) rd rs rt s

/-- OR (R104). -/
def execOr (rd rs rt : Reg) (s : State) : Host.Outcome State Fault Refusal :=
  execR (fun a b => a ||| b) rd rs rt s

/-- XOR (R105). -/
def execXor (rd rs rt : Reg) (s : State) : Host.Outcome State Fault Refusal :=
  execR (fun a b => a ^^^ b) rd rs rt s

/-- SHL (R106): the amount is the low four bits of `x[rt]`. -/
def execShl (rd rs rt : Reg) (s : State) : Host.Outcome State Fault Refusal :=
  execR (fun a b => shiftLeft a (shiftAmount b)) rd rs rt s

/-- SHR (R107): the fill is the parameter `SHR_FILL`. -/
def execShr (rd rs rt : Reg) (s : State) : Host.Outcome State Fault Refusal :=
  execR (fun a b => shiftRight s.config.shrFill a (shiftAmount b)) rd rs rt s

/-- NOP (R108): pc only. -/
def execNop (s : State) : Host.Outcome State Fault Refusal :=
  .next s.advance

end Sys2Proof.Machine
end

