-- ==== Sys2Proof/Machine/Flags.lean ====
section
/-! DEFINITION. ISA12 has no status flags and no condition codes (spec/10_state.md R28): no instruction writes or reads
one, so there is no flag computation. The one condition is the equality test inside BEQ and BNE, kept nowhere
(spec/43_branch.md R140). -/

namespace Sys2Proof.Machine

/-- The comparison of BEQ and BNE: equality of all 12 bits of two registers (R140). -/
def State.regsEqual (s : State) (rs rt : Reg) : Bool := s.reg rs == s.reg rt

end Sys2Proof.Machine
end

