-- ==== Sys2Proof/Machine/Branch.lean ====
section
/-! DEFINITION. Control transfer (spec/43_branch.md): BEQ, BNE and the optional JEXT. Only pc changes (R140). -/

namespace Sys2Proof.Machine

/-- A conditional branch: to the target when `taken`, else to the next instruction (R140 step 5). There is no delay slot
(R147). -/
def State.branch (s : State) (taken : Bool) (off : Imm3) : State :=
  if taken then s.setPc (s.branchTarget off) else s.advance

/-- BEQ (R141). -/
def execBeq (rs rt : Reg) (off : Imm3) (s : State) : Host.Outcome State Fault Refusal :=
  .next (s.branch (s.regsEqual rs rt) off)

/-- BNE (R142). -/
def execBne (rs rt : Reg) (off : Imm3) (s : State) : Host.Outcome State Fault Refusal :=
  .next (s.branch (!s.regsEqual rs rt) off)

/-- JEXT (R148): an unconditional relative jump that saves nothing. It exists only when `JEXT_ENABLED` is true; without
it the instruction's word is illegal (R73), which `decode` has already found in every step. -/
def execJext (off : Off9) (s : State) : Host.Outcome State Fault Refusal :=
  if s.config.jextEnabled then .next (s.setPc (s.jumpTarget off))
  else .fault (.illegalInstruction s.pc (encode (.jext off)))

end Sys2Proof.Machine
end

