-- ==== Sys2Proof/Machine/Immediate.lean ====
section
/-! DEFINITION. The I-type arithmetic instructions ADDI and SUBI (spec/41_itype_immediate.md). -/

namespace Sys2Proof.Machine

/-- The common template of R120: combine `x[rs]` with `sext_12(imm3)`, write `x[rd]`, advance pc. -/
def execI (f : Word → Word → Word) (rd rs : Reg) (imm : Imm3) (s : State) : Host.Outcome State Fault Refusal :=
  .next (s.setReg rd (f (s.reg rs) (sext3 imm))).advance

/-- ADDI (R121). -/
def execAddi (rd rs : Reg) (imm : Imm3) (s : State) : Host.Outcome State Fault Refusal :=
  execI (fun a k => a + k) rd rs imm s

/-- SUBI (R122): the immediate is sign-extended first and then subtracted. -/
def execSubi (rd rs : Reg) (imm : Imm3) (s : State) : Host.Outcome State Fault Refusal :=
  execI (fun a k => a - k) rd rs imm s

end Sys2Proof.Machine
end

