-- ==== Sys2Proof/Machine/LoadStore.lean ====
section
/-! DEFINITION. The load and the store (spec/42_load_store.md): LD and STR, the only instructions that reach data memory
(spec/20_memory.md R42). -/

namespace Sys2Proof.Machine

/-- LD (R131): the base is read before rd is written. With rd = R0 the access is still made, so it can still fault, and
the value is discarded (R133, D18). -/
def execLd (rd rs : Reg) (imm : Imm3) (s : State) : Host.Outcome State Fault Refusal :=
  s.atData (s.ea rs imm) (s.setReg rd (s.memRead (s.ea rs imm))).advance

/-- STR (R132): all 12 bits of `x[rt]` at the effective address; no register is written. -/
def execStr (rt rs : Reg) (imm : Imm3) (s : State) : Host.Outcome State Fault Refusal :=
  s.atData (s.ea rs imm) (s.memWrite (s.ea rs imm) (s.reg rt)).advance

end Sys2Proof.Machine
end

