-- ==== Sys2Proof/Machine/Dispatch.lean ====
section
/-! DEFINITION. Which meaning each instruction has: one arm per constructor of Instr. -/

namespace Sys2Proof.Machine

/-- Execute one decoded instruction (spec/00_scope.md R11). -/
def exec (i : Instr) (s : State) : Host.Outcome State Fault Refusal :=
  match i with
  | .add rd rs rt => Sys2Proof.Machine.execAdd rd rs rt s
  | .sub rd rs rt => Sys2Proof.Machine.execSub rd rs rt s
  | .and rd rs rt => Sys2Proof.Machine.execAnd rd rs rt s
  | .or rd rs rt => Sys2Proof.Machine.execOr rd rs rt s
  | .xor rd rs rt => Sys2Proof.Machine.execXor rd rs rt s
  | .shl rd rs rt => Sys2Proof.Machine.execShl rd rs rt s
  | .shr rd rs rt => Sys2Proof.Machine.execShr rd rs rt s
  | .nop => Sys2Proof.Machine.execNop s
  | .addi rd rs imm => Sys2Proof.Machine.execAddi rd rs imm s
  | .subi rd rs imm => Sys2Proof.Machine.execSubi rd rs imm s
  | .ld rd rs imm => Sys2Proof.Machine.execLd rd rs imm s
  | .str rt rs imm => Sys2Proof.Machine.execStr rt rs imm s
  | .beq rs rt off => Sys2Proof.Machine.execBeq rs rt off s
  | .bne rs rt off => Sys2Proof.Machine.execBne rs rt off s
  | .jext off => Sys2Proof.Machine.execJext off s

end Sys2Proof.Machine
end

