-- ==== Sys2Proof/Machine/Step.lean ====
section
/-! DEFINITION. One step of the machine (spec/00_scope.md R11) and the placing of one instruction where it fetches. -/

namespace Sys2Proof.Machine

/-- One step: fetch, decode, execute, with the checks in the order of R185: FetchOutOfRange (R183), then
IllegalInstruction (R182), then whatever the instruction itself raises (R184). -/
def step (s : State) : Host.Outcome State Fault Refusal :=
  match s.fetch with
  | none => .fault (.fetchOutOfRange s.pc)
  | some w =>
    match decode s.config.jextEnabled w with
    | .error _ => .fault (.illegalInstruction s.pc w)
    | .ok i => exec i s

/-- The state with the 12-bit instruction word `w` at the address the next step fetches from: the host's load of a
program (R202, R209). A word with opcode `111` is an instruction only on a machine with JEXT, so the parameter
`JEXT_ENABLED` is set for it (log entry 6); nothing else changes. -/
def State.withFetchWord (s : State) (_nbits w : Nat) : State :=
  { s with
    imem := s.imem.write s.pc.toNat (BitVec.ofNat 12 w)
    config := { s.config with
      jextEnabled := s.config.jextEnabled || fieldOp (BitVec.ofNat 12 w) == 0b111#3 } }

end Sys2Proof.Machine
end

