-- ==== Sys2Proof/Machine/Conventions.lean ====
section
/-! DEFINITION. The software conventions of spec/44_software_conventions.md and the idioms of spec/30_encoding.md R82:
register usage, calls, the stack, control structures. The hardware neither enforces nor assists any of it. -/

namespace Sys2Proof.Machine

/-- Who saves a register across a call (R160, R161). -/
inductive SavedBy where
  | notApplicable | caller | callee
deriving DecidableEq, Repr

/-- The "Saved by" column of R160. -/
def savedBy : Reg → SavedBy
  | .r0 => .notApplicable
  | .r1 => .caller
  | .r2 => .caller
  | .r3 => .callee

/-- The stack pointer by convention, counted in words (R160, R167). -/
def stackPointer : Reg := .r3

/-- The registers of the first and second argument (R162). -/
def argumentRegs : List Reg := [.r1, .r2]

/-- The register a function leaves its result in (R163). -/
def returnReg : Reg := .r1

/-- What a callee that obeys the convention does to the registers between its entry `s` and its return `t` (R161): every
callee-saved register is as it was found. -/
def obeysConvention (s t : State) : Prop := ∀ r : Reg, savedBy r = .callee → t.reg r = s.reg r

/-- Unconditional short jump: a register equals itself (R82, R144). -/
def jumpShort (off : Imm3) : Instr := .beq .r0 .r0 off

/-- Load a constant -4..+3 (R82). -/
def loadConstant (rd : Reg) (k : Imm3) : Instr := .addi rd .r0 k

/-- Copy a register (R82). -/
def copyReg (rd rs : Reg) : Instr := .add rd rs .r0

/-- Clear a register (R82). -/
def clearReg (rd : Reg) : Instr := .add rd .r0 .r0

/-- A call, and a return, is an unconditional short branch; no return address is saved (R164). -/
def callShort (off : Imm3) : Instr := jumpShort off

/-- Push: decrement the stack pointer, then store; full-descending (R165, R167). -/
def push (rn : Reg) : List Instr := [.addi .r3 .r3 0b111#3, .str rn .r3 0b000#3]

/-- Pop: load, then increment the stack pointer (R166, R167). -/
def pop (rn : Reg) : List Instr := [.ld rn .r3 0b000#3, .addi .r3 .r3 0b001#3]

/-- The signed field of a value, none outside -4..+3 (R66, R79: "An operand outside -4..+3 is an error, not a
truncation"). -/
def imm3Of (k : Int) : Option Imm3 := if -4 ≤ k ∧ k ≤ 3 then some (BitVec.ofInt 3 k) else none

/-- The signed field of JEXT for a value, none outside -256..+255 (R67). -/
def off9Of (k : Int) : Option Off9 := if -256 ≤ k ∧ k ≤ 255 then some (BitVec.ofInt 9 k) else none

/-- The IF / ELSE shape of R168: BNE over the then part, the then part, a jump over the else part, the else part. None
when an offset does not fit. -/
def ifElse (ra rb : Reg) (thenPart elsePart : List Instr) : Option (List Instr) := do
  let toElse ← imm3Of (thenPart.length + 1)
  let out ← imm3Of elsePart.length
  return [.bne ra rb toElse] ++ thenPart ++ [jumpShort out] ++ elsePart

/-- The loop shape of R168 and R149: the body, closed by a BNE back to its first instruction, offset -(n+1). None when the
body has more than 3 instructions. -/
def loopWhileNe (rc rlimit : Reg) (body : List Instr) : Option (List Instr) := do
  let back ← imm3Of (-(body.length + 1))
  return body ++ [.bne rc rlimit back]

/-- The instructions of a list executed one after another, stopping at the first fault or refusal. -/
def execSeq : List Instr → State → Host.Outcome State Fault Refusal
  | [], s => .next s
  | i :: is, s =>
    match exec i s with
    | .next t => execSeq is t
    | .fault r => .fault r
    | .refused r => .refused r

end Sys2Proof.Machine
end

