-- ==== Sys2Proof/Machine/Asm.lean ====
section
/-! DEFINITION. The assembler notation of spec/30_encoding.md R76 to R81: a line of text to an instruction, labels to
offsets, a program to words. It is no part of the machine (decision D19). DESIGN CHOICE: what the examples leave open is
settled in log entries 15 (which lines are accepted), 18 (label names, binary fields), 19 (JEXT) and 20 (spaces, zeros). -/

namespace Sys2Proof.Machine

/-- The tokens of a line (R77 to R80). A number keeps its digits, because in a line of binary fields each digit is a
bit. -/
inductive Tok where
  | word (cs : List Char)
  | num (digits : List Char)
  | comma | lbr | rbr | plus | minus | colon
deriving DecidableEq, Repr

/-- An instruction of the text: complete, a branch to a label still without its offset (R79), or a word written out in
binary fields (R80). -/
inductive AsmInstr where
  | plain (i : Instr)
  | bits (w : Word)
  | toLabel (isBne : Bool) (rs rt : Reg) (label : List Char)
deriving DecidableEq, Repr

/-- A line: the labels before its instruction, and the instruction if it has one (R80). -/
structure AsmLine where
  labels : List (List Char)
  instr : Option AsmInstr
deriving DecidableEq, Repr

/-- A name's or number's character. DESIGN CHOICE (log entry 18): R80 says only "a name" and shows `func`, `ret` and
`loop`; the model takes ASCII letters, digits and underscore. -/
def nameChar (c : Char) : Bool := c.isAlphanum || c == '_'

/-- The line without its comment, which runs from `#` or `;` to the end of the line and may hold any characters (R80). -/
def stripComment (text : List Char) : List Char := text.takeWhile (fun c => c != '#' && c != ';')

/-- The value of a string of decimal digits (R79: no other base). -/
def decimal (cs : List Char) : Nat := cs.foldl (fun n c => 10 * n + (c.toNat - '0'.toNat)) 0

/-- The token of the characters gathered so far, last one first: a number when all are digits, a name when the first is a
letter, nothing when there are none. DESIGN CHOICE (log entry 18): a name begins with a letter. -/
def flushTok (acc : List Char) : Option (List Tok) :=
  match acc.reverse with
  | [] => some []
  | c :: cs =>
    if (c :: cs).all Char.isDigit then some [.num (c :: cs)]
    else if c.isAlpha then some [.word (c :: cs)] else none

/-- The tokens of a line without its comment; `–` (U+2013) is read as `-` (R79). DESIGN CHOICE (log entry 20): spaces
between tokens have no meaning. -/
def lexLine (acc : List Char) : List Char → Option (List Tok)
  | [] => flushTok acc
  | c :: cs =>
    if nameChar c then lexLine (c :: acc) cs
    else do
      let before ← flushTok acc
      let rest ← lexLine [] cs
      match c with
      | ' ' => return before ++ rest
      | ',' => return before ++ .comma :: rest
      | '[' => return before ++ .lbr :: rest
      | ']' => return before ++ .rbr :: rest
      | '+' => return before ++ .plus :: rest
      | '-' => return before ++ .minus :: rest
      | '–' => return before ++ .minus :: rest
      | ':' => return before ++ .colon :: rest
      | _ => none

/-- Register names: `R0` to `R3` only, no alias (R78). -/
def regOfName (cs : List Char) : Option Reg :=
  if cs = ['R', '0'] then some .r0
  else if cs = ['R', '1'] then some .r1
  else if cs = ['R', '2'] then some .r2
  else if cs = ['R', '3'] then some .r3 else none

/-- A decimal integer with an optional sign (R79). DESIGN CHOICE (log entry 20): spaces may stand between the sign and the
digits, and the digits may begin with zeros. -/
def intOf : List Tok → Option Int
  | [.num ds] => some (decimal ds)
  | [.plus, .num ds] => some (decimal ds)
  | [.minus, .num ds] => some (-decimal ds)
  | _ => none

/-- The offset between the brackets of LD and STR, `+ imm3]` or `- imm3]` (R77). -/
def bracketOffset : List Tok → Option Int
  | [.plus, .num ds, .rbr] => some (decimal ds)
  | [.minus, .num ds, .rbr] => some (-decimal ds)
  | _ => none

/-- The R-type instruction of a mnemonic (R69). -/
def rTypeOf (m : List Char) (rd rs rt : Reg) : Option Instr :=
  if m = "ADD".toList then some (.add rd rs rt)
  else if m = "SUB".toList then some (.sub rd rs rt)
  else if m = "AND".toList then some (.and rd rs rt)
  else if m = "OR".toList then some (.or rd rs rt)
  else if m = "XOR".toList then some (.xor rd rs rt)
  else if m = "SHL".toList then some (.shl rd rs rt)
  else if m = "SHR".toList then some (.shr rd rs rt) else none

/-- The instruction of a mnemonic, two registers and an integer: ADDI, SUBI, BEQ, BNE, and BNQ for BNE (R77, R81). -/
def withImm (m : List Char) (a b : Reg) (k : Int) : Option Instr := do
  let v ← imm3Of k
  if m = "ADDI".toList then some (.addi a b v)
  else if m = "SUBI".toList then some (.subi a b v)
  else if m = "BEQ".toList then some (.beq a b v)
  else if m = "BNE".toList then some (.bne a b v)
  else if m = "BNQ".toList then some (.bne a b v) else none

/-- LD and STR with a base and an offset; the first register is the destination of LD and the data of STR (R77). -/
def withBracket (m : List Char) (a base : Reg) (k : Int) : Option Instr := do
  let v ← imm3Of k
  if m = "LD".toList then some (.ld a base v)
  else if m = "STR".toList then some (.str a base v) else none

/-- A branch to a label (R79, R81). -/
def branchTo (m : List Char) (rs rt : Reg) (label : List Char) : Option AsmInstr :=
  if m = "BEQ".toList then some (.toLabel false rs rt label)
  else if m = "BNE".toList then some (.toLabel true rs rt label)
  else if m = "BNQ".toList then some (.toLabel true rs rt label) else none

/-- The last operand of a three-operand form: a register, a label or an integer (R77). -/
def thirdOperand (m : List Char) (a b : Reg) : List Tok → Option AsmInstr
  | [.word c] =>
    match regOfName c with
    | some r => (rTypeOf m a b r).map .plain
    | none => branchTo m a b c
  | ts => do
    let k ← intOf ts
    let i ← withImm m a b k
    return .plain i

/-- The digits of a line of numbers, one after another: "the spaces separate fields and have no meaning" (R80). -/
def fieldDigits : List Tok → Option (List Char)
  | [] => some []
  | .num ds :: ts => (fieldDigits ts).map (ds ++ ·)
  | _ => none

/-- The word of an instruction written out in binary fields, bit 11 first, as §8.1 of the source writes its programs (R80,
R7). DESIGN CHOICE (log entry 18): a line with another digit or another number of bits than 12 is refused (conflict C11),
and the word need not be a legal instruction. -/
def binaryWord (ts : List Tok) : Option Word := do
  let ds ← fieldDigits ts
  if ds.length = 12 ∧ ds.all (fun c => c == '0' || c == '1') then
    some (BitVec.ofNat 12 (ds.foldl (fun n c => 2 * n + (c.toNat - '0'.toNat)) 0))
  else none

/-- The instruction forms of R77, `JEXT off9` (the opcode table's form of it), and the binary fields of R80. DESIGN CHOICE
(log entry 19): R77 gives JEXT no form; the line is accepted whatever JEXT_ENABLED is, which the assembler does not know,
and its operand is an integer, never a label. -/
def parseInstr : List Tok → Option AsmInstr
  | .num ds :: rest => (binaryWord (.num ds :: rest)).map .bits
  | [.word m] => if m = "NOP".toList then some (.plain .nop) else none
  | .word m :: .word a :: .comma :: .lbr :: .word b :: rest => do
    let ra ← regOfName a
    let rb ← regOfName b
    let k ← bracketOffset rest
    let i ← withBracket m ra rb k
    return .plain i
  | .word m :: .word a :: .comma :: .word b :: .comma :: rest => do
    let ra ← regOfName a
    let rb ← regOfName b
    thirdOperand m ra rb rest
  | .word m :: rest =>
    if m = "JEXT".toList then do
      let k ← intOf rest
      let v ← off9Of k
      return .plain (.jext v)
    else none
  | _ => none

/-- The tokens of a line: any labels, each followed by a colon, then one instruction or none (R80). DESIGN CHOICE (log
entry 20): more than one label may stand on a line. -/
def parseToks : List Tok → Option AsmLine
  | [] => some { labels := [], instr := none }
  | .word l :: .colon :: rest => do
    let line ← parseToks rest
    return { line with labels := l :: line.labels }
  | ts => do
    let i ← parseInstr ts
    return { labels := [], instr := some i }

/-- One line of program text (R77 to R81). -/
def parseLine (text : List Char) : Option AsmLine := do
  let ts ← lexLine [] (stripComment text)
  parseToks ts

/-- The labels of a program, each with the address of the next instruction (R80), the first instruction at `addr`. -/
def labelTable (addr : Nat) : List AsmLine → List (List Char × Nat)
  | [] => []
  | l :: ls =>
    l.labels.map (fun n => (n, addr)) ++ labelTable (if l.instr.isSome then addr + 1 else addr) ls

/-- `off3 = address(label) - (address(branch) + 1)`, none outside -4..+3 (R79, D19). -/
def labelOffset (label branch : Nat) : Option Imm3 := imm3Of ((label : Int) - (branch + 1))

/-- The word of a parsed instruction at address `addr`, its label replaced by an offset (R79). -/
def resolve (table : List (List Char × Nat)) (addr : Nat) : AsmInstr → Option Word
  | .plain i => some (encode i)
  | .bits w => some w
  | .toLabel isBne rs rt label => do
    let target ← table.lookup label
    let off ← labelOffset target addr
    return encode (if isBne then .bne rs rt off else .beq rs rt off)

/-- The words of a program, one after another from `addr`. -/
def resolveAll (table : List (List Char × Nat)) (addr : Nat) : List AsmLine → Option (List Word)
  | [] => some []
  | l :: ls =>
    match l.instr with
    | none => resolveAll table addr ls
    | some a => do
      let w ← resolve table addr a
      let ws ← resolveAll table (addr + 1) ls
      return w :: ws

/-- The words of a program placed at `base`, none when a line, an operand or a label distance is refused, or when a label
stands at two places. -/
def assemble (base : Nat) (text : List (List Char)) : Option (List Word) := do
  let lines ← text.mapM parseLine
  let table := labelTable base lines
  if (table.map Prod.fst).Nodup then
    resolveAll table base lines
  else none

end Sys2Proof.Machine
end

