-- ==== Sys2Proof/Machine/Access.lean ====
section
/-! DEFINITION. The register access table of spec/10_state.md R23: which general registers an instruction reads and which
one it writes. -/

namespace Sys2Proof.Machine

/-- The registers an instruction reads (R23). -/
def sources : Instr → List Reg
  | .add _ rs rt => [rs, rt]
  | .sub _ rs rt => [rs, rt]
  | .and _ rs rt => [rs, rt]
  | .or _ rs rt => [rs, rt]
  | .xor _ rs rt => [rs, rt]
  | .shl _ rs rt => [rs, rt]
  | .shr _ rs rt => [rs, rt]
  | .nop => []
  | .addi _ rs _ => [rs]
  | .subi _ rs _ => [rs]
  | .ld _ rs _ => [rs]
  | .str rt rs _ => [rs, rt]
  | .beq rs rt _ => [rs, rt]
  | .bne rs rt _ => [rs, rt]
  | .jext _ => []

/-- The register an instruction writes, none for NOP, STR, BEQ, BNE and JEXT (R23). -/
def destination : Instr → Option Reg
  | .add rd _ _ => some rd
  | .sub rd _ _ => some rd
  | .and rd _ _ => some rd
  | .or rd _ _ => some rd
  | .xor rd _ _ => some rd
  | .shl rd _ _ => some rd
  | .shr rd _ _ => some rd
  | .nop => none
  | .addi rd _ _ => some rd
  | .subi rd _ _ => some rd
  | .ld rd _ _ => some rd
  | .str _ _ _ => none
  | .beq _ _ _ => none
  | .bne _ _ _ => none
  | .jext _ => none

/-- STR, the one instruction that writes data memory (spec/20_memory.md R42). -/
def isStore : Instr → Bool
  | .str _ _ _ => true
  | _ => false

/-- LD and STR, the instructions that access data memory (R42). -/
def isDataAccess : Instr → Bool
  | .ld _ _ _ => true
  | .str _ _ _ => true
  | _ => false

end Sys2Proof.Machine
end

