-- ==== Sys2Proof/Safety.lean ====
section
/-! DEFINITION. What counts as a safe run of ISA12, in the terms statements use: the invariant of the state, a step that
goes on, the end of a run (spec/70_reset_and_hazards.md R205), and what an instruction leaves as it was. -/

namespace Sys2Proof.Machine

/-- The states the spec's tuple describes (R30, R31): both memories in canonical form and inside their sizes, and the sizes
inside the 12-bit address space. The canonical form is the model's own, log entry 4, and the bound on the sizes log entry
17. -/
def State.Inv (s : State) : Prop :=
  s.config.wf ∧ s.imem.wf ∧ s.imem.within s.config.imemWords ∧ s.dmem.wf ∧ s.dmem.within s.config.dmemWords

/-- The step from `s` goes on. -/
def State.goesOn (s : State) : Prop := ∃ t, step s = .next t

/-- A terminal state (R205): "the step from `s` is not a fault and yields `s` itself". A convention of the model for the
end of a run, not a property of the hardware (D13, log entry 16). -/
def State.Terminal (s : State) : Prop := step s = .next s

/-- The run from `s` ends after `k` steps in the terminal state `t`: its registers and data memory are the result (R205). -/
def EndsIn (k : Nat) (s t : State) : Prop := Host.Core.run Sys2Proof.core k s = .next t ∧ t.Terminal

/-- The run from `s` reaches a model fault, which is no good end (R205). -/
def RunFaults (s : State) (f : Fault) : Prop := ∃ k, Host.Core.run Sys2Proof.core k s = .fault f

/-- The run from `s` never reaches a terminal state and never faults (R205, U20). -/
def Diverges (s : State) : Prop := ∀ k, ∃ t, Host.Core.run Sys2Proof.core k s = .next t ∧ ¬ t.Terminal

/-- Both memories read the same at every address. -/
def SameMemories (s t : State) : Prop :=
  (∀ a : Nat, t.dmem.read a = s.dmem.read a) ∧ ∀ a : Nat, t.imem.read a = s.imem.read a

/-- `t` is `s` with `v` in register `rd` (nothing written when `rd` is R0) and `target` in pc, and nothing else changed:
every other register, both memories and the configuration are as before. -/
def RegisterResult (s t : State) (rd : Reg) (v target : Word) : Prop :=
  (∀ r : Reg, t.reg r = if r = .r0 then 0x000#12 else if r = rd then v else s.reg r) ∧
  t.pc = target ∧ SameMemories s t ∧ t.config = s.config

/-- `t` is `s` with `target` in pc, and nothing else changed. -/
def PcResult (s t : State) (target : Word) : Prop :=
  (∀ r : Reg, t.reg r = s.reg r) ∧ t.pc = target ∧ SameMemories s t ∧ t.config = s.config

/-- `t` is `s` with the data-memory word at `ea` replaced by `v` and pc advanced, and nothing else changed. -/
def StoreResult (s t : State) (ea v : Word) : Prop :=
  t.dmem.read ea.toNat = v ∧ (∀ a : Nat, a ≠ ea.toNat → t.dmem.read a = s.dmem.read a) ∧
  (∀ a : Nat, t.imem.read a = s.imem.read a) ∧ (∀ r : Reg, t.reg r = s.reg r) ∧
  t.pc = s.pc + 1#12 ∧ t.config = s.config

/-- The fetch of `s` gives the word `w` (R11, R41). -/
def State.Fetches (s : State) (w : Word) : Prop :=
  s.pc.toNat < s.config.imemWords ∧ s.imem.read s.pc.toNat = w

end Sys2Proof.Machine
end

