-- ==== Sys2Proof/WellFormed.lean ====
section
/-! DEFINITION. Which instructions a machine of a given configuration has. Register indices and immediates are in range by
their types (R61, R66, R67), so the one check left is that JEXT exists only when `JEXT_ENABLED` is true (R60, R65). -/

namespace Sys2Proof

/-- The instruction exists on a machine with the parameters `c` (R60: "The optional fifteenth, JEXT, exists only when
`JEXT_ENABLED` is true"). -/
def Instr.wellFormed (c : Config) : Instr → Bool
  | .add _ _ _ => true
  | .sub _ _ _ => true
  | .and _ _ _ => true
  | .or _ _ _ => true
  | .xor _ _ _ => true
  | .shl _ _ _ => true
  | .shr _ _ _ => true
  | .nop => true
  | .addi _ _ _ => true
  | .subi _ _ _ => true
  | .ld _ _ _ => true
  | .str _ _ _ => true
  | .beq _ _ _ => true
  | .bne _ _ _ => true
  | .jext _ => c.jextEnabled

end Sys2Proof
end

