-- ==== Sys2Proof/Certificates/Slice0/Obligations.lean ====
section
/-! DEFINITION. The statements about ISA12 for the provers, from the numbered rules of spec/. Addresses, results and
effects are written out in the rules' own arithmetic where the rule gives one. -/

open Sys2Proof Sys2Proof.Machine

/-! ### Values and registers -/

/-- R9: bit 2 of a 3-bit field is repeated in bits [11:3], as a number the field plus 4088 when it is 4 or more; bit 8 of
a 9-bit field is repeated in bits [11:9]. -/
def Obligations.SignExtension : Prop :=
  (∀ v : Imm3, ∀ i : Nat, i < 12 → (sext3 v).getLsbD i = v.getLsbD (min i 2)) ∧
  (∀ v : Imm3, (sext3 v).toNat = if v.toNat < 4 then v.toNat else v.toNat + 4088) ∧
  (∀ v : Off9, ∀ i : Nat, i < 12 → (sext9 v).getLsbD i = v.getLsbD (min i 8))

/-- R20: four registers, each selected by its 2-bit index and by no other. -/
def Obligations.RegisterIndices : Prop :=
  Reg.ofBits 0b00#2 = .r0 ∧ Reg.ofBits 0b01#2 = .r1 ∧ Reg.ofBits 0b10#2 = .r2 ∧ Reg.ofBits 0b11#2 = .r3 ∧
  (∀ r : Reg, Reg.ofBits r.bits = r) ∧ ∀ b : BitVec 2, (Reg.ofBits b).bits = b

/-- R21: R0 reads 0 in every state; a write to it changes no state; an instruction whose destination is R0, once it goes
on, has advanced pc and done nothing else. -/
def Obligations.RegisterZeroIsConstant : Prop :=
  (∀ s : State, s.reg .r0 = 0x000#12) ∧
  (∀ (s : State) (v : Word), s.setReg .r0 v = s) ∧
  (∀ (i : Instr) (s t : State), destination i = some .r0 → exec i s = .next t → t = { s with pc := s.pc + 1#12 })

/-- R22: a value written to R1, R2 or R3 is what a read returns, and no other register, pc, memory or parameter changes. -/
def Obligations.RegisterReadAfterWrite : Prop :=
  ∀ (s : State) (r : Reg) (v : Word), r ≠ .r0 →
    (s.setReg r v).reg r = v ∧ (∀ q : Reg, q ≠ r → (s.setReg r v).reg q = s.reg q) ∧
    (s.setReg r v).pc = s.pc ∧ (s.setReg r v).imem = s.imem ∧ (s.setReg r v).dmem = s.dmem ∧
    (s.setReg r v).config = s.config

/-! ### R-type instructions -/

/-- R101. Encoding `000 000 rd rs rt`; x[rd] <- (x[rs] + x[rt]) mod 4096; pc <- pc + 1; nothing else changes. -/
def Obligations.AddInstruction : Prop :=
  (∀ (j : Bool) (d a b : BitVec 2),
    decode j (0b000#3 ++ 0b000#3 ++ d ++ a ++ b) = .ok (.add (Reg.ofBits d) (Reg.ofBits a) (Reg.ofBits b))) ∧
  (∀ (rd rs rt : Reg) (s : State), ∃ t, exec (.add rd rs rt) s = .next t ∧
    RegisterResult s t rd (BitVec.ofNat 12 ((s.reg rs).toNat + (s.reg rt).toNat)) (s.pc + 1#12))

/-- R102. Encoding `000 001 rd rs rt`; x[rd] <- (x[rs] + (4096 - x[rt])) mod 4096; pc <- pc + 1; nothing else changes. -/
def Obligations.SubInstruction : Prop :=
  (∀ (j : Bool) (d a b : BitVec 2),
    decode j (0b000#3 ++ 0b001#3 ++ d ++ a ++ b) = .ok (.sub (Reg.ofBits d) (Reg.ofBits a) (Reg.ofBits b))) ∧
  (∀ (rd rs rt : Reg) (s : State), ∃ t, exec (.sub rd rs rt) s = .next t ∧
    RegisterResult s t rd (BitVec.ofNat 12 ((s.reg rs).toNat + (4096 - (s.reg rt).toNat))) (s.pc + 1#12))

/-- R103. Encoding `000 010 rd rs rt`; bit i of the result is x[rs][i] and x[rt][i]. -/
def Obligations.AndInstruction : Prop :=
  (∀ (j : Bool) (d a b : BitVec 2),
    decode j (0b000#3 ++ 0b010#3 ++ d ++ a ++ b) = .ok (.and (Reg.ofBits d) (Reg.ofBits a) (Reg.ofBits b))) ∧
  (∀ (rd rs rt : Reg) (s : State), ∃ (t : State) (v : Word), exec (.and rd rs rt) s = .next t ∧
    (∀ i : Nat, i < 12 → v.getLsbD i = ((s.reg rs).getLsbD i && (s.reg rt).getLsbD i)) ∧
    RegisterResult s t rd v (s.pc + 1#12))

/-- R104. Encoding `000 011 rd rs rt`; bit i of the result is x[rs][i] or x[rt][i]. -/
def Obligations.OrInstruction : Prop :=
  (∀ (j : Bool) (d a b : BitVec 2),
    decode j (0b000#3 ++ 0b011#3 ++ d ++ a ++ b) = .ok (.or (Reg.ofBits d) (Reg.ofBits a) (Reg.ofBits b))) ∧
  (∀ (rd rs rt : Reg) (s : State), ∃ (t : State) (v : Word), exec (.or rd rs rt) s = .next t ∧
    (∀ i : Nat, i < 12 → v.getLsbD i = ((s.reg rs).getLsbD i || (s.reg rt).getLsbD i)) ∧
    RegisterResult s t rd v (s.pc + 1#12))

/-- R105. Encoding `000 100 rd rs rt`; bit i of the result is whether x[rs][i] and x[rt][i] differ. -/
def Obligations.XorInstruction : Prop :=
  (∀ (j : Bool) (d a b : BitVec 2),
    decode j (0b000#3 ++ 0b100#3 ++ d ++ a ++ b) = .ok (.xor (Reg.ofBits d) (Reg.ofBits a) (Reg.ofBits b))) ∧
  (∀ (rd rs rt : Reg) (s : State), ∃ (t : State) (v : Word), exec (.xor rd rs rt) s = .next t ∧
    (∀ i : Nat, i < 12 → v.getLsbD i = ((s.reg rs).getLsbD i != (s.reg rt).getLsbD i)) ∧
    RegisterResult s t rd v (s.pc + 1#12))

/-- SHL (R106). Encoding `000 101 rd rs rt`; sh is the low 4 bits of x[rt]; x[rd] <- (x[rs] * 2^sh) mod 4096, which is 0
for sh = 12 .. 15. That last value is the spec's own decision D6. -/
def Obligations.ShlInstruction : Prop :=
  (∀ (j : Bool) (d a b : BitVec 2),
    decode j (0b000#3 ++ 0b101#3 ++ d ++ a ++ b) = .ok (.shl (Reg.ofBits d) (Reg.ofBits a) (Reg.ofBits b))) ∧
  (∀ (rd rs rt : Reg) (s : State), ∃ t, exec (.shl rd rs rt) s = .next t ∧
    RegisterResult s t rd (BitVec.ofNat 12 ((s.reg rs).toNat * 2 ^ ((s.reg rt).toNat % 16))) (s.pc + 1#12))

/-- SHR (R107). Encoding `000 110 rd rs rt`; sh is the low 4 bits of x[rt]. With SHR_FILL = 0, x[rd] <- floor(x[rs] / 2^sh)
with x[rs] unsigned; with SHR_FILL = 1, the same with x[rs] signed. The logical reading is the spec's own decision D5, the
value for sh = 12 .. 15 its decision D6, and the reading of SHR_FILL = 1 is the model's, log entry 9. -/
def Obligations.ShrInstruction : Prop :=
  (∀ (j : Bool) (d a b : BitVec 2),
    decode j (0b000#3 ++ 0b110#3 ++ d ++ a ++ b) = .ok (.shr (Reg.ofBits d) (Reg.ofBits a) (Reg.ofBits b))) ∧
  (∀ (rd rs rt : Reg) (s : State), ∃ t, exec (.shr rd rs rt) s = .next t ∧
    RegisterResult s t rd
      (match s.config.shrFill with
        | .zero => BitVec.ofNat 12 ((s.reg rs).toNat / 2 ^ ((s.reg rt).toNat % 16))
        | .sign => BitVec.ofInt 12 ((s.reg rs).toInt / 2 ^ ((s.reg rt).toNat % 16)))
      (s.pc + 1#12))

/-- NOP (R108). All 64 words `000 111 xxxxxx` are NOP (the spec's own decision D7), and NOP only advances pc. -/
def Obligations.NopInstruction : Prop :=
  (∀ (j : Bool) (x : BitVec 6), decode j (0b000#3 ++ 0b111#3 ++ x) = .ok .nop) ∧
  (∀ s : State, ∃ t, exec .nop s = .next t ∧ PcResult s t (s.pc + 1#12))

/-! ### I-type instructions -/

/-- R121. Encoding `001 imm3 rd rs 00`; x[rd] <- (x[rs] + sext_12(imm3)) mod 4096; pc <- pc + 1; nothing else changes. -/
def Obligations.AddiInstruction : Prop :=
  (∀ (j : Bool) (k : Imm3) (d a : BitVec 2),
    decode j (0b001#3 ++ k ++ d ++ a ++ 0b00#2) = .ok (.addi (Reg.ofBits d) (Reg.ofBits a) k)) ∧
  (∀ (rd rs : Reg) (k : Imm3) (s : State), ∃ t, exec (.addi rd rs k) s = .next t ∧
    RegisterResult s t rd (BitVec.ofInt 12 ((s.reg rs).toNat + k.toInt)) (s.pc + 1#12))

/-- R122. Encoding `010 imm3 rd rs 00`; x[rd] <- (x[rs] - sext_12(imm3)) mod 4096; pc <- pc + 1; nothing else changes. -/
def Obligations.SubiInstruction : Prop :=
  (∀ (j : Bool) (k : Imm3) (d a : BitVec 2),
    decode j (0b010#3 ++ k ++ d ++ a ++ 0b00#2) = .ok (.subi (Reg.ofBits d) (Reg.ofBits a) k)) ∧
  (∀ (rd rs : Reg) (k : Imm3) (s : State), ∃ t, exec (.subi rd rs k) s = .next t ∧
    RegisterResult s t rd (BitVec.ofInt 12 ((s.reg rs).toNat - k.toInt)) (s.pc + 1#12))

/-- R123: SUBI with k in -3..+3 is ADDI with -k, and SUBI with -4 adds 4. -/
def Obligations.SubiIsAddiOfNegation : Prop :=
  (∀ (rd rs : Reg) (k : Imm3) (s : State), k ≠ 0b100#3 → exec (.subi rd rs k) s = exec (.addi rd rs (-k)) s) ∧
  (∀ (rd rs : Reg) (s : State), ∃ t, exec (.subi rd rs 0b100#3) s = .next t ∧
    RegisterResult s t rd (s.reg rs + 4#12) (s.pc + 1#12))

/-- R131. Encoding `011 imm3 rd rs 00`, other low bits being illegal; at an address the data memory has, x[rd] is the word
at ea = (x[rs] + sext_12(imm3)) mod 4096 and pc advances; beyond the data memory it faults with pc and ea. That the other
words and the addresses beyond are faults is the spec's own decisions D8 and D3 (log entry 12). -/
def Obligations.LdInstruction : Prop :=
  (∀ (j : Bool) (k : Imm3) (d a b : BitVec 2),
    decode j (0b011#3 ++ k ++ d ++ a ++ b) =
      if b = 0b00#2 then .ok (.ld (Reg.ofBits d) (Reg.ofBits a) k) else .error .reservedRt) ∧
  (∀ (rd rs : Reg) (k : Imm3) (s : State) (ea : Word), ea = BitVec.ofInt 12 ((s.reg rs).toNat + k.toInt) →
    (ea.toNat < s.config.dmemWords → ∃ t, exec (.ld rd rs k) s = .next t ∧
      RegisterResult s t rd (s.dmem.read ea.toNat) (s.pc + 1#12)) ∧
    (s.config.dmemWords ≤ ea.toNat → exec (.ld rd rs k) s = .fault (.dataAddressOutOfRange s.pc ea)))

/-- R132. Encoding `100 imm3 00 rs rt`, other bits [5:4] being illegal; at an address the data memory has, the word at
ea = (x[rs] + sext_12(imm3)) mod 4096 becomes x[rt], every other word, every register and the instruction memory
staying as they are, and pc advances; beyond the data memory it faults with pc and ea. That the
other words and the addresses beyond are faults is the spec's own decisions D8 and D3 (log entry 12). -/
def Obligations.StrInstruction : Prop :=
  (∀ (j : Bool) (k : Imm3) (d a b : BitVec 2),
    decode j (0b100#3 ++ k ++ d ++ a ++ b) =
      if d = 0b00#2 then .ok (.str (Reg.ofBits b) (Reg.ofBits a) k) else .error .reservedRd) ∧
  (∀ (rt rs : Reg) (k : Imm3) (s : State) (ea : Word), ea = BitVec.ofInt 12 ((s.reg rs).toNat + k.toInt) →
    (ea.toNat < s.config.dmemWords → ∃ t, exec (.str rt rs k) s = .next t ∧ StoreResult s t ea (s.reg rt)) ∧
    (s.config.dmemWords ≤ ea.toNat → exec (.str rt rs k) s = .fault (.dataAddressOutOfRange s.pc ea)))

/-- LD with rd = R0 (R133): the access is made and the value discarded, so the instruction only advances pc, and it still
faults beyond the data memory. That the access is made is the spec's own decision D18. -/
def Obligations.LoadIntoRegisterZero : Prop :=
  ∀ (rs : Reg) (k : Imm3) (s : State),
    ((s.reg rs + sext3 k).toNat < s.config.dmemWords →
      ∃ t, exec (.ld .r0 rs k) s = .next t ∧ PcResult s t (s.pc + 1#12)) ∧
    (s.config.dmemWords ≤ (s.reg rs + sext3 k).toNat →
      exec (.ld .r0 rs k) s = .fault (.dataAddressOutOfRange s.pc (s.reg rs + sext3 k)))

/-- R134: after a store that went on, a load whose effective address is the one stored to gives the value stored. -/
def Obligations.LoadAfterStore : Prop :=
  ∀ (rt rs rd rb : Reg) (k l : Imm3) (s t : State),
    exec (.str rt rs k) s = .next t → t.reg rb + sext3 l = s.reg rs + sext3 k →
    ∃ u, exec (.ld rd rb l) t = .next u ∧ RegisterResult t u rd (s.reg rt) (t.pc + 1#12)

/-- R165, R166: push Rn then pop Rm (neither being the stack pointer) leaves the stack pointer as it was, Rm with the value
pushed, that value in the word below the old stack top, and every other word of data memory as it was. -/
def Obligations.PushThenPop : Prop :=
  ∀ (rn rm : Reg) (s : State), rn ≠ .r3 → rm ≠ .r3 → (s.reg .r3 - 1#12).toNat < s.config.dmemWords →
    ∃ t, execSeq (push rn ++ pop rm) s = .next t ∧
      (∀ r : Reg, t.reg r = if r = .r0 then 0x000#12 else if r = rm then s.reg rn else s.reg r) ∧
      t.dmem.read (s.reg .r3 - 1#12).toNat = s.reg rn ∧
      (∀ a : Nat, a ≠ (s.reg .r3 - 1#12).toNat → t.dmem.read a = s.dmem.read a) ∧
      t.pc = s.pc + 4#12 ∧ t.imem = s.imem ∧ t.config = s.config

/-! ### Control transfer -/

/-- R141. Encoding `101 off3 0 0 rs rt`; equal registers: pc <- (pc + 1 + sext_12(off3)) mod 4096, else pc <- pc + 1;
nothing else changes. -/
def Obligations.BeqInstruction : Prop :=
  (∀ (j : Bool) (k : Imm3) (a b : BitVec 2),
    decode j (0b101#3 ++ k ++ 0b0#1 ++ 0b0#1 ++ a ++ b) = .ok (.beq (Reg.ofBits a) (Reg.ofBits b) k)) ∧
  (∀ (rs rt : Reg) (k : Imm3) (s : State), ∃ t, exec (.beq rs rt k) s = .next t ∧
    PcResult s t (if s.reg rs = s.reg rt then BitVec.ofInt 12 (s.pc.toNat + 1 + k.toInt) else s.pc + 1#12))

/-- R142. Encoding `101 off3 1 0 rs rt`; different registers: pc <- (pc + 1 + sext_12(off3)) mod 4096, else pc <- pc + 1;
nothing else changes. -/
def Obligations.BneInstruction : Prop :=
  (∀ (j : Bool) (k : Imm3) (a b : BitVec 2),
    decode j (0b101#3 ++ k ++ 0b1#1 ++ 0b0#1 ++ a ++ b) = .ok (.bne (Reg.ofBits a) (Reg.ofBits b) k)) ∧
  (∀ (rs rt : Reg) (k : Imm3) (s : State), ∃ t, exec (.bne rs rt k) s = .next t ∧
    PcResult s t (if s.reg rs ≠ s.reg rt then BitVec.ofInt 12 (s.pc.toNat + 1 + k.toInt) else s.pc + 1#12))

/-- R143: the taken target is T = (A + 1 + sext_12(off3)) mod 4096, and T - A is the table's entry for the field's bits, for
a taken BEQ and for a taken BNE. -/
def Obligations.BranchTargetTable : Prop :=
  ∀ (rs rt : Reg) (k : Imm3) (s t : State),
    ((exec (.beq rs rt k) s = .next t ∧ s.reg rs = s.reg rt) ∨
      (exec (.bne rs rt k) s = .next t ∧ s.reg rs ≠ s.reg rt)) →
    t.pc = s.pc + 1#12 + sext3 k ∧
    t.pc - s.pc =
      match k with
      | 0b000#3 => 0x001#12
      | 0b001#3 => 0x002#12
      | 0b010#3 => 0x003#12
      | 0b011#3 => 0x004#12
      | 0b100#3 => 0xFFD#12
      | 0b101#3 => 0xFFE#12
      | 0b110#3 => 0xFFF#12
      | _ => 0x000#12

/-- R144: BEQ of a register with itself is always taken, and `BEQ R0, R0, off3` is the word 0xA00 + 64 * (off3 mod 8). -/
def Obligations.UnconditionalShortJump : Prop :=
  (∀ (r : Reg) (k : Imm3) (s : State), ∃ t, exec (.beq r r k) s = .next t ∧ PcResult s t (s.pc + 1#12 + sext3 k)) ∧
  (∀ k : Imm3, (encode (.beq .r0 .r0 k)).toNat = 0xA00 + 64 * (k.toInt % 8).toNat)

/-- BNE of a register with itself is never taken (the corner case of R142). -/
def Obligations.BneOfSameRegisterNeverTaken : Prop :=
  ∀ (r : Reg) (k : Imm3) (s : State), ∃ t, exec (.bne r r k) s = .next t ∧ PcResult s t (s.pc + 1#12)

/-- R145: off3 = 0 falls through whatever the registers hold; off3 = -1 taken leaves the whole state as it is. -/
def Obligations.BranchOffsetsZeroAndMinusOne : Prop :=
  (∀ (rs rt : Reg) (s : State),
    exec (.beq rs rt 0b000#3) s = .next { s with pc := s.pc + 1#12 } ∧
    exec (.bne rs rt 0b000#3) s = .next { s with pc := s.pc + 1#12 }) ∧
  (∀ (rs rt : Reg) (s : State), s.reg rs = s.reg rt → exec (.beq rs rt 0b111#3) s = .next s) ∧
  (∀ (rs rt : Reg) (s : State), s.reg rs ≠ s.reg rt → exec (.bne rs rt 0b111#3) s = .next s)

/-- JEXT with JEXT_ENABLED (R148): encoding `111 off9`; pc <- (pc + 1 + sext_12(off9)) mod 4096 and nothing else changes.
The base pc + 1 is the spec's own decision D11. -/
def Obligations.JextInstruction : Prop :=
  (∀ k : Off9, decode true (0b111#3 ++ k) = .ok (.jext k)) ∧
  (∀ (k : Off9) (s : State), s.config.jextEnabled = true → ∃ t, exec (.jext k) s = .next t ∧
    PcResult s t (BitVec.ofInt 12 (s.pc.toNat + 1 + k.toInt)))

/-- Without JEXT_ENABLED every word of opcode `111` is illegal, which is the spec's own decision D9 (log entry 12), and
`exec` of JEXT itself is the fault with its own pc and word, which is the model's own choice, log entry 6. -/
def Obligations.JextAbsentIsIllegal : Prop :=
  (∀ k : Off9, decode false (0b111#3 ++ k) = .error .opcode111) ∧
  (∀ (k : Off9) (s : State), s.config.jextEnabled = false →
    exec (.jext k) s = .fault (.illegalInstruction s.pc (0b111#3 ++ k)))

/-- R25: what pc is after each instruction that goes on: pc + 1, but for a taken branch and JEXT. The target of JEXT is the
spec's own decision D11 (log entry 12), which R25 does not give. -/
def Obligations.NextPcOfEachInstruction : Prop :=
  ∀ (i : Instr) (s t : State), exec i s = .next t →
    t.pc =
      match i with
      | .beq rs rt k => if s.reg rs = s.reg rt then s.pc + 1#12 + sext3 k else s.pc + 1#12
      | .bne rs rt k => if s.reg rs = s.reg rt then s.pc + 1#12 else s.pc + 1#12 + sext3 k
      | .jext k => s.pc + 1#12 + sext9 k
      | _ => s.pc + 1#12

/-- R27: from a given address, only the fetched word and that address fix where a step can go: the next address, or the
one target of the branch or jump in the word. The base pc + 1 of JEXT's target is the spec's own decision D11 (log
entry 12). -/
def Obligations.AtMostTwoSuccessors : Prop :=
  ∀ (s t : State) (w : Word), s.Fetches w → step s = .next t →
    t.pc = s.pc + 1#12 ∨
    (w.extractLsb' 9 3 = 0b101#3 ∧ t.pc = s.pc + 1#12 + sext3 (w.extractLsb' 6 3)) ∨
    (w.extractLsb' 9 3 = 0b111#3 ∧ s.config.jextEnabled = true ∧ t.pc = s.pc + 1#12 + sext9 (w.extractLsb' 0 9))

/-- R26, R45, R146: pc and data addresses wrap modulo 4096 at both ends. The wrap is the spec's own decisions D1 and D3. -/
def Obligations.AddressesWrap : Prop :=
  (∀ s : State, s.pc = 0xFFF#12 → ∃ t, exec .nop s = .next t ∧ t.pc = 0x000#12) ∧
  (∀ s : State, s.pc = 0x000#12 → ∃ t, exec (.beq .r0 .r0 0b100#3) s = .next t ∧ t.pc = 0xFFD#12) ∧
  (∀ s : State, s.pc = 0xFFF#12 → ∃ t, exec (.beq .r0 .r0 0b011#3) s = .next t ∧ t.pc = 0x003#12) ∧
  (∀ (s : State) (r : Reg), s.reg r = 0x000#12 → s.ea r 0b111#3 = 0xFFF#12) ∧
  (∀ (s : State) (r : Reg), s.reg r = 0xFFF#12 → s.ea r 0b001#3 = 0x000#12)

/-! ### The step and its faults -/

/-- R11: when the word fetched at pc decodes to an instruction of this machine, the step is that instruction's execution;
nothing is added around it. -/
def Obligations.StepRunsDecodedInstruction : Prop :=
  ∀ (s : State) (w : Word) (i : Instr), s.Fetches w → decode s.config.jextEnabled w = .ok i → step s = exec i s

/-- R182: a fetched word that decodes to no instruction is the fault with pc and the word. That illegal words fault is the
spec's own decisions D8, D9 and D10. -/
def Obligations.IllegalWordFaults : Prop :=
  ∀ (s : State) (w : Word) (e : Illegal), s.Fetches w → decode s.config.jextEnabled w = .error e →
    step s = .fault (.illegalInstruction s.pc w)

/-- R183, R185: a pc beyond the instruction memory is the fault with pc, whatever the memory list holds. The fault is the
spec's own decision D2. -/
def Obligations.FetchBeyondMemoryFaults : Prop :=
  ∀ s : State, s.config.imemWords ≤ s.pc.toNat → step s = .fault (.fetchOutOfRange s.pc)

/-- An instruction faults only where it is LD or STR with an effective address beyond the data memory, which is the spec's
own decision D3 (log entry 12), or JEXT on a machine without it, which rests on the spec's decision D9 and is the model's
own choice in `exec`, log entry 6. -/
def Obligations.OnlyTheseInstructionFaults : Prop :=
  ∀ (i : Instr) (s : State) (f : Fault), exec i s = .fault f →
    (∃ rd rs k, i = .ld rd rs k ∧ s.config.dmemWords ≤ (s.reg rs + sext3 k).toNat ∧
      f = .dataAddressOutOfRange s.pc (s.reg rs + sext3 k)) ∨
    (∃ rt rs k, i = .str rt rs k ∧ s.config.dmemWords ≤ (s.reg rs + sext3 k).toNat ∧
      f = .dataAddressOutOfRange s.pc (s.reg rs + sext3 k)) ∨
    (∃ k, i = .jext k ∧ s.config.jextEnabled = false ∧ f = .illegalInstruction s.pc (0b111#3 ++ k))

/-- With both memories at their full 4096 words, every step on a legal word goes on, and a step on an illegal one is
IllegalInstruction. That an illegal word is that fault is the spec's own decisions D8, D9 and D10 (log entry 12). -/
def Obligations.FullMemoriesLeaveOnlyIllegalWords : Prop :=
  ∀ s : State, s.config.imemWords = 4096 → s.config.dmemWords = 4096 →
    match decode s.config.jextEnabled (s.imem.read s.pc.toNat) with
    | .ok _ => ∃ t, step s = .next t
    | .error _ => step s = .fault (.illegalInstruction s.pc (s.imem.read s.pc.toNat))

/-- No step is refused: every instruction of the opcode table has a meaning. -/
def Obligations.NoStepIsRefused : Prop :=
  ∀ (s : State) (r : Refusal), step s ≠ .refused r

/-- R205: the terminal states are exactly those whose instruction at pc is a taken branch with off3 = -1, or JEXT -1.
Terminal is the spec's own convention, decision D13. -/
def Obligations.TerminalStatesAreSelfLoops : Prop :=
  ∀ s : State, s.Terminal ↔
    ∃ w, s.Fetches w ∧
      ((∃ rs rt, decode s.config.jextEnabled w = .ok (.beq rs rt 0b111#3) ∧ s.reg rs = s.reg rt) ∨
       (∃ rs rt, decode s.config.jextEnabled w = .ok (.bne rs rt 0b111#3) ∧ s.reg rs ≠ s.reg rt) ∨
       decode s.config.jextEnabled w = .ok (.jext 0x1FF#9))

/-! ### Frames over all instructions, and the invariant -/

/-- R22, R23: an instruction that goes on leaves every register but its destination as it was. -/
def Obligations.OnlyDestinationRegisterChanges : Prop :=
  ∀ (i : Instr) (s t : State), exec i s = .next t →
    ∀ r : Reg, destination i ≠ some r → t.reg r = s.reg r

/-- From R42: no instruction but STR changes a word of data memory, and STR changes none but the one at its effective address;
no instruction but LD and STR depends on the data memory, and LD depends on none of it but the word at its effective
address. That LD makes its read and STR its write is what LdInstruction and StrInstruction say. -/
def Obligations.DataMemoryReachedOnlyByLoadAndStore : Prop :=
  (∀ (i : Instr) (s t : State), exec i s = .next t → isStore i = false →
    ∀ a : Nat, t.dmem.read a = s.dmem.read a) ∧
  (∀ (rt rs : Reg) (k : Imm3) (s t : State), exec (.str rt rs k) s = .next t →
    ∀ a : Nat, a ≠ (s.reg rs + sext3 k).toNat → t.dmem.read a = s.dmem.read a) ∧
  (∀ (i : Instr) (s t : State) (m : Memory), isDataAccess i = false → exec i s = .next t →
    exec i (s.setDmem m) = .next (t.setDmem m)) ∧
  (∀ (rd rs : Reg) (k : Imm3) (s t : State) (m : Memory), exec (.ld rd rs k) s = .next t →
    m.read (s.reg rs + sext3 k).toNat = s.dmem.read (s.reg rs + sext3 k).toNat →
    exec (.ld rd rs k) (s.setDmem m) = .next (t.setDmem m))

/-- R41, R52, R208: no step changes the instruction memory or a parameter of the machine. -/
def Obligations.StepKeepsProgramAndParameters : Prop :=
  ∀ s t : State, step s = .next t → t.imem = s.imem ∧ t.config = s.config

/-- R22, R23, R31: what an instruction does depends on the registers of the access table's "Reads" column alone, beside pc,
the memories and the parameters: two states that agree there go on alike, to the same pc, the same data memory and the
same value in the destination. -/
def Obligations.ResultDependsOnlyOnSources : Prop :=
  ∀ (i : Instr) (s u t : State), (∀ r ∈ sources i, u.reg r = s.reg r) → u.pc = s.pc → u.dmem = s.dmem →
    u.config = s.config → exec i s = .next t →
    ∃ v, exec i u = .next v ∧ v.pc = t.pc ∧ v.dmem = t.dmem ∧ v.config = t.config ∧
      ∀ r : Reg, destination i = some r → v.reg r = t.reg r

/-- The invariant holds in the state right after reset. That reset lists nothing in either memory is the model's choice,
log entries 2 and 3; the canonical form is the model's, log entry 4, and the bound on the sizes log entry 17. -/
def Obligations.InvariantAtReset : Prop := State.reset.Inv

/-- The invariant holds at every launch whose program and data fit the memories (R202), whatever the words and the
registers. The canonical form is the model's, log entry 4, and the bound on the sizes log entry 17. -/
def Obligations.InvariantAtLaunch : Prop :=
  ∀ (c : Config) (x1 x2 x3 : Word) (program data : List Word) (p d : Nat), c.wf →
    p + program.length ≤ c.imemWords → d + data.length ≤ c.dmemWords →
    (State.launch c x1 x2 x3 (Memory.ofWords p program) (Memory.ofWords d data)).Inv

/-- Every step keeps the invariant: memories canonical and inside their sizes, sizes inside the address space. The sizes are
R30's; the canonical form is the model's, log entry 4, and the bound on the sizes log entry 17. -/
def Obligations.StepKeepsInvariant : Prop :=
  ∀ s t : State, s.Inv → step s = .next t → t.Inv

/-- In canonical form, memories that read the same at every address are the same list. -/
def Obligations.CanonicalMemoriesEqual : Prop :=
  ∀ m n : Memory, m.wf → n.wf → (∀ a : Nat, m.read a = n.read a) → m = n

/-- The state right after reset: pc = 0 (R200, decision D12), R0 = 0 (R21), and the values the model names in log entries 1,
2 and 3 for R1, R2, R3 and the memories, and in log entry 5 for the parameters. -/
def Obligations.ResetState : Prop :=
  State.reset.pc = 0x000#12 ∧ (∀ r : Reg, State.reset.reg r = 0x000#12) ∧
  (∀ a : Nat, State.reset.imem.read a = 0x000#12) ∧ (∀ a : Nat, State.reset.dmem.read a = 0x000#12) ∧
  State.reset.config.imemWords = 4096 ∧ State.reset.config.dmemWords = 4096 ∧
  State.reset.config.jextEnabled = false ∧ State.reset.config.shrFill = .zero

/-- R200 to R202: a launch starts at pc = 0 with R0 = 0 and with the launch parameters everywhere else: the word k of the
program at address p + k, the word k of the data at address d + k. -/
def Obligations.LaunchPlacesItsParameters : Prop :=
  ∀ (c : Config) (x1 x2 x3 : Word) (program data : List Word) (p d : Nat) (s : State),
    s = State.launch c x1 x2 x3 (Memory.ofWords p program) (Memory.ofWords d data) →
    s.pc = 0x000#12 ∧ s.reg .r0 = 0x000#12 ∧ s.reg .r1 = x1 ∧ s.reg .r2 = x2 ∧ s.reg .r3 = x3 ∧ s.config = c ∧
    (∀ (k : Nat) (w : Word), program[k]? = some w → s.imem.read (p + k) = w) ∧
    (∀ (k : Nat) (w : Word), data[k]? = some w → s.dmem.read (d + k) = w)

/-! ### Encoding -/

/-- R76: every instruction of a machine is read back from its word, with every operand. -/
def Obligations.DecodeOfEncode : Prop :=
  ∀ (c : Config) (i : Instr), i.wellFormed c = true → decode c.jextEnabled (encode i) = .ok i

/-- R76: a legal word is its instruction's word again, but for NOP, whose 64 words re-encode as 0x1C0. -/
def Obligations.EncodeOfDecode : Prop :=
  ∀ (j : Bool) (w : Word) (i : Instr), decode j w = .ok i →
    (i ≠ .nop → encode i = w) ∧ (i = .nop → encode i = 0x1C0#12 ∧ 0x1C0#12 ≤ w ∧ w ≤ 0x1FF#12)

/-- R76: the arithmetic of enc_R, enc_I and enc_J, and the word of JEXT (R65). -/
def Obligations.EncodingArithmetic : Prop :=
  let R := fun (f : Nat) (rd rs rt : Reg) => f * 64 + rd.bits.toNat * 16 + rs.bits.toNat * 4 + rt.bits.toNat
  let I := fun (op : Nat) (k : Imm3) (rd rs rt : Reg) =>
    op * 512 + (k.toInt % 8).toNat * 64 + rd.bits.toNat * 16 + rs.bits.toNat * 4 + rt.bits.toNat
  let J := fun (c : Nat) (k : Imm3) (rs rt : Reg) =>
    2560 + (k.toInt % 8).toNat * 64 + c * 32 + rs.bits.toNat * 4 + rt.bits.toNat
  ∀ i : Instr, (encode i).toNat =
    match i with
    | .add rd rs rt => R 0 rd rs rt
    | .sub rd rs rt => R 1 rd rs rt
    | .and rd rs rt => R 2 rd rs rt
    | .or rd rs rt => R 3 rd rs rt
    | .xor rd rs rt => R 4 rd rs rt
    | .shl rd rs rt => R 5 rd rs rt
    | .shr rd rs rt => R 6 rd rs rt
    | .nop => 0x1C0
    | .addi rd rs k => I 1 k rd rs .r0
    | .subi rd rs k => I 2 k rd rs .r0
    | .ld rd rs k => I 3 k rd rs .r0
    | .str rt rs k => I 4 k .r0 rs rt
    | .beq rs rt k => J 0 k rs rt
    | .bne rs rt k => J 1 k rs rt
    | .jext k => 3584 + (k.toInt % 512).toNat

/-- The decoder and the match and mask columns of spec/opcode_table.json agree: a word decodes to an instruction of a row
exactly when its masked bits are the row's match value, JEXT being enabled. -/
def Obligations.DecoderAgreesWithOpcodeTable : Prop :=
  (∀ (w : Word) (i : Instr), decode true w = .ok i → w &&& i.tableMask = i.tableMatch) ∧
  (∀ (w : Word) (i : Instr), w &&& i.tableMask = i.tableMatch →
    ∃ k, decode true w = .ok k ∧ k.tableMatch = i.tableMatch ∧ k.tableMask = i.tableMask)

/-- R69: all eight funct3 values are assigned, so every word with opcode `000` is the legal instruction of its funct3. -/
def Obligations.EveryRTypeWordIsLegal : Prop :=
  ∀ (j : Bool) (f : BitVec 3) (d a b : BitVec 2),
    decode j (0b000#3 ++ f ++ d ++ a ++ b) =
      match f with
      | 0b000#3 => .ok (.add (Reg.ofBits d) (Reg.ofBits a) (Reg.ofBits b))
      | 0b001#3 => .ok (.sub (Reg.ofBits d) (Reg.ofBits a) (Reg.ofBits b))
      | 0b010#3 => .ok (.and (Reg.ofBits d) (Reg.ofBits a) (Reg.ofBits b))
      | 0b011#3 => .ok (.or (Reg.ofBits d) (Reg.ofBits a) (Reg.ofBits b))
      | 0b100#3 => .ok (.xor (Reg.ofBits d) (Reg.ofBits a) (Reg.ofBits b))
      | 0b101#3 => .ok (.shl (Reg.ofBits d) (Reg.ofBits a) (Reg.ofBits b))
      | 0b110#3 => .ok (.shr (Reg.ofBits d) (Reg.ofBits a) (Reg.ofBits b))
      | _ => .ok .nop

/-- R72, R73, R75: which words are illegal, and by which name; every other word is legal. That reserved and unassigned words
are illegal is the spec's own decisions D8 and D9. -/
def Obligations.IllegalWordsByName : Prop :=
  ∀ (j : Bool) (w : Word),
    (decode j w = .error .reservedRt ↔
      (w.extractLsb' 9 3 = 0b001#3 ∨ w.extractLsb' 9 3 = 0b010#3 ∨ w.extractLsb' 9 3 = 0b011#3) ∧
      w.extractLsb' 0 2 ≠ 0b00#2) ∧
    (decode j w = .error .reservedRd ↔ w.extractLsb' 9 3 = 0b100#3 ∧ w.extractLsb' 4 2 ≠ 0b00#2) ∧
    (decode j w = .error .reservedPad ↔ w.extractLsb' 9 3 = 0b101#3 ∧ w.extractLsb' 4 1 = 0b1#1) ∧
    (decode j w = .error .opcode110 ↔ w.extractLsb' 9 3 = 0b110#3) ∧
    (decode j w = .error .opcode111 ↔ w.extractLsb' 9 3 = 0b111#3 ∧ j = false)

/-- R75: with JEXT_ENABLED false, 1280 of the 4096 words are legal and 2816 are illegal. -/
def Obligations.LegalWordCount : Prop :=
  ((List.range 4096).countP fun n => (decode false (BitVec.ofNat 12 n)).isOk) = 1280 ∧
  ((List.range 4096).countP fun n => !(decode false (BitVec.ofNat 12 n)).isOk) = 2816

/-- Words of the source's examples, written out bit by bit, decode to the instructions they stand for under the spec. -/
def Obligations.SourceExampleWords : Prop :=
  decode false 0b000000011011#12 = .ok (.add .r1 .r2 .r3) ∧
  decode false 0b001110100100#12 = .ok (.addi .r2 .r1 0b110#3) ∧
  decode false 0b011110100100#12 = .ok (.ld .r2 .r1 0b110#3) ∧
  decode false 0b100000001000#12 = .ok (.str .r0 .r2 0b000#3) ∧
  decode false 0b101001000110#12 = .ok (.beq .r1 .r2 0b001#3) ∧
  decode false 0b101111100001#12 = .ok (.bne .r0 .r1 0b111#3) ∧
  decode false 0b110100011110#12 = .error .opcode110

/-- Loading one instruction word where the next step fetches makes that step run exactly it, and leaves registers, pc and
data memory as they were. The load from outside is the model's, log entry 3. A word of opcode 111 is read as JEXT and
switches the parameter JEXT_ENABLED on, so the configuration may change: the model's choice, log entry 6. -/
def Obligations.PlacedWordRuns : Prop :=
  ∀ (s : State) (nbits w : Nat) (i : Instr), s.pc.toNat < s.config.imemWords → decodeTableWord nbits w = some i →
    step (s.withFetchWord nbits w) = exec i (s.withFetchWord nbits w) ∧
    (∀ r : Reg, (s.withFetchWord nbits w).reg r = s.reg r) ∧ (s.withFetchWord nbits w).pc = s.pc ∧
    (s.withFetchWord nbits w).dmem = s.dmem

/-! ### Assembler -/

/-- R66, R79: a value has a 3-bit field exactly when it is in -4..+3, and the field's signed value is that value. -/
def Obligations.ImmediateRangeIsRefused : Prop :=
  (∀ k : Int, (imm3Of k).isSome = true ↔ -4 ≤ k ∧ k ≤ 3) ∧
  (∀ (k : Int) (v : Imm3), imm3Of k = some v → v.toInt = k)

/-- R79: the offset put in place of a label is the one with which a taken branch at the branch's address goes to the
label. The formula is the spec's own decision D19. -/
def Obligations.LabelOffsetReachesLabel : Prop :=
  ∀ (label branch : Nat) (k : Imm3) (s : State), labelOffset label branch = some k →
    s.pc = BitVec.ofNat 12 branch →
    ∃ t, exec (jumpShort k) s = .next t ∧ PcResult s t (BitVec.ofNat 12 label)
end

