-- ==== Sys2Proof/Laws/Asm.lean ====
section
/-! SUPPORT. A comment has no effect on what a line of program text stands for (spec/30_encoding.md R80). -/

namespace Sys2Proof.Machine

/-- From the first `#` or `;` on, whatever stands there is dropped. -/
theorem stripComment_append_comment (text comment : List Char) (c : Char) (hc : c = '#' ∨ c = ';') :
    stripComment (text ++ c :: comment) = stripComment text := by
  induction text with
  | nil => rcases hc with rfl | rfl <;> simp [stripComment]
  | cons d text ih =>
    simp only [stripComment, List.cons_append, List.takeWhile_cons] at ih ⊢
    split
    · rw [ih]
    · rfl

/-- A line with a comment after it is read as the line alone. -/
theorem parseLine_append_comment (text comment : List Char) (c : Char) (hc : c = '#' ∨ c = ';') :
    parseLine (text ++ c :: comment) = parseLine text := by
  simp only [parseLine, stripComment_append_comment text comment c hc]

end Sys2Proof.Machine
end

