-- ==== Sys2Proof/Laws/Memory.lean ====
section
/-! SUPPORT. The laws of the memory list: reading after writing, and that every memory operation keeps the canonical form
and the bound on addresses. -/

namespace Sys2Proof.Machine

theorem Memory.read_erase (m : Memory) (a b : Nat) :
    (m.erase a).read b = if b = a then 0x000#12 else m.read b := by
  induction m with
  | nil => simp [Memory.erase, Memory.read]
  | cons c m ih =>
    obtain ⟨k, v⟩ := c
    simp only [Memory.erase, List.filter_cons] at ih ⊢
    by_cases hk : k = a
    · subst hk
      by_cases hb : k = b
      · subst hb
        simpa using ih
      · simpa [Memory.read, hb, Ne.symm hb] using ih
    · by_cases hb : k = b
      · subst hb
        simp [Memory.read, hk]
      · simpa [Memory.read, hk, hb] using ih

/-- Erasing leaves no entry of the address. -/
theorem Memory.erase_lacks (m : Memory) (a : Nat) : ∀ c ∈ m.erase a, c.1 ≠ a := by
  intro c hc
  simpa using (List.mem_filter.mp hc).2

theorem Memory.read_insert (a : Nat) (v : Word) (m : Memory) (h : ∀ c ∈ m, c.1 ≠ a) (b : Nat) :
    (Memory.insert a v m).read b = if b = a then v else m.read b := by
  induction m with
  | nil => simp [Memory.insert, Memory.read, eq_comm]
  | cons c m ih =>
    obtain ⟨k, u⟩ := c
    have hk : k ≠ a := h (k, u) (by simp)
    have ih := ih (fun c hc => h c (by simp [hc]))
    by_cases hlt : a < k
    · simp [Memory.insert, hlt, Memory.read, eq_comm]
    · by_cases hb : k = b
      · subst hb
        simp [Memory.insert, hlt, Memory.read, hk]
      · simpa [Memory.insert, hlt, Memory.read, hb] using ih

/-- A word read after a write: the value at the address written, what was there at every other one (R43, R44). It holds of
every list, canonical or not. -/
theorem Memory.read_write (m : Memory) (a : Nat) (v : Word) (b : Nat) :
    (m.write a v).read b = if b = a then v else m.read b := by
  unfold Memory.write
  split
  · next hv => simp [Memory.read_erase, hv]
  · rw [Memory.read_insert a v _ (Memory.erase_lacks m a), Memory.read_erase]
    split <;> rfl

@[simp] theorem Memory.read_write_same (m : Memory) (a : Nat) (v : Word) : (m.write a v).read a = v := by
  simp [Memory.read_write]

theorem Memory.read_write_other (m : Memory) {a b : Nat} (v : Word) (h : b ≠ a) :
    (m.write a v).read b = m.read b := by
  simp [Memory.read_write, h]

theorem Memory.mem_insert {a : Nat} {v : Word} {m : Memory} {c : Nat × Word} :
    c ∈ Memory.insert a v m ↔ c = (a, v) ∨ c ∈ m := by
  induction m with
  | nil => simp [Memory.insert]
  | cons d m ih =>
    unfold Memory.insert
    split
    · simp
    · simp only [List.mem_cons, ih]
      tauto

theorem Memory.insert_sorted (a : Nat) (v : Word) {m : Memory}
    (hs : m.Pairwise (fun c d => c.1 < d.1)) (ha : ∀ c ∈ m, c.1 ≠ a) :
    (Memory.insert a v m).Pairwise (fun c d => c.1 < d.1) := by
  induction m with
  | nil => simp [Memory.insert]
  | cons c m ih =>
    obtain ⟨hc, hm⟩ := List.pairwise_cons.mp hs
    unfold Memory.insert
    split
    · next hlt =>
      refine List.pairwise_cons.mpr ⟨fun d hd => ?_, hs⟩
      rcases List.mem_cons.mp hd with rfl | hd
      · exact hlt
      · exact lt_trans hlt (hc d hd)
    · next hlt =>
      have hca : c.1 < a := lt_of_le_of_ne (not_lt.mp hlt) (ha c (by simp))
      refine List.pairwise_cons.mpr ⟨fun d hd => ?_, ih hm (fun d hd => ha d (by simp [hd]))⟩
      rcases Memory.mem_insert.mp hd with rfl | hd
      · exact hca
      · exact hc d hd

theorem Memory.wf_nil : Memory.wf [] := by simp [Memory.wf]

theorem Memory.wf_erase {m : Memory} (h : m.wf) (a : Nat) : (m.erase a).wf :=
  ⟨h.1.sublist List.filter_sublist, fun c hc => h.2 c (List.mem_filter.mp hc).1⟩

/-- A write keeps the canonical form. -/
theorem Memory.wf_write {m : Memory} (h : m.wf) (a : Nat) (v : Word) : (m.write a v).wf := by
  unfold Memory.write
  split
  · exact Memory.wf_erase h a
  · next hv =>
    refine ⟨Memory.insert_sorted a v (Memory.wf_erase h a).1 (Memory.erase_lacks m a), fun c hc => ?_⟩
    rcases Memory.mem_insert.mp hc with rfl | hc
    · exact hv
    · exact (Memory.wf_erase h a).2 c hc

/-- A write inside the memory's size keeps every listed address inside it. -/
theorem Memory.within_write {m : Memory} {n : Nat} (h : m.within n) {a : Nat} (ha : a < n) (v : Word) :
    (m.write a v).within n := by
  intro c hc
  unfold Memory.write at hc
  split at hc
  · exact h c (List.mem_filter.mp hc).1
  · rcases Memory.mem_insert.mp hc with rfl | hc
    · exact ha
    · exact h c (List.mem_filter.mp hc).1

/-- What a launch places is canonical. -/
theorem Memory.wf_ofWords (base : Nat) (ws : List Word) : (Memory.ofWords base ws).wf := by
  induction ws generalizing base with
  | nil => exact Memory.wf_nil
  | cons w ws ih => exact Memory.wf_write (ih (base + 1)) base w

/-- What a launch places at `base` stays inside a memory that has room for it. -/
theorem Memory.within_ofWords {base n : Nat} {ws : List Word} (h : base + ws.length ≤ n) :
    (Memory.ofWords base ws).within n := by
  induction ws generalizing base with
  | nil => simp [Memory.ofWords]
  | cons w ws ih =>
    simp only [List.length_cons] at h
    exact Memory.within_write (ih (by omega)) (by omega) w

end Sys2Proof.Machine
end

