-- ==== Sys2Proof/Laws/PerInstr.lean ====
section
/-! SUPPORT. Statements made per instruction. The family TableRow: the word the encoder gives an instruction has the
opcode table's match value in the bits of the row's mask (spec/opcode_table.json, spec/30_encoding.md R68 to R71). -/

namespace Sys2Proof.Laws.TableRow

/-- The instruction's word belongs to its row of the opcode table. -/
def Statement (i : Instr) : Prop := encode i &&& i.tableMask = i.tableMatch

theorem add (rd rs rt : Reg) : Statement (.add rd rs rt) := by
  cases rd <;> cases rs <;> cases rt <;> rfl
theorem sub (rd rs rt : Reg) : Statement (.sub rd rs rt) := by
  cases rd <;> cases rs <;> cases rt <;> rfl
theorem and (rd rs rt : Reg) : Statement (.and rd rs rt) := by
  cases rd <;> cases rs <;> cases rt <;> rfl
theorem or (rd rs rt : Reg) : Statement (.or rd rs rt) := by
  cases rd <;> cases rs <;> cases rt <;> rfl
theorem xor (rd rs rt : Reg) : Statement (.xor rd rs rt) := by
  cases rd <;> cases rs <;> cases rt <;> rfl
theorem shl (rd rs rt : Reg) : Statement (.shl rd rs rt) := by
  cases rd <;> cases rs <;> cases rt <;> rfl
theorem shr (rd rs rt : Reg) : Statement (.shr rd rs rt) := by
  cases rd <;> cases rs <;> cases rt <;> rfl
theorem nop : Statement .nop := by rfl
theorem addi (rd rs : Reg) (imm : Imm3) : Statement (.addi rd rs imm) := by
  revert imm
  cases rd <;> cases rs <;> (unfold Statement; decide)
theorem subi (rd rs : Reg) (imm : Imm3) : Statement (.subi rd rs imm) := by
  revert imm
  cases rd <;> cases rs <;> (unfold Statement; decide)
theorem ld (rd rs : Reg) (imm : Imm3) : Statement (.ld rd rs imm) := by
  revert imm
  cases rd <;> cases rs <;> (unfold Statement; decide)
theorem str (rt rs : Reg) (imm : Imm3) : Statement (.str rt rs imm) := by
  revert imm
  cases rt <;> cases rs <;> (unfold Statement; decide)
theorem beq (rs rt : Reg) (off : Imm3) : Statement (.beq rs rt off) := by
  revert off
  cases rs <;> cases rt <;> (unfold Statement; decide)
theorem bne (rs rt : Reg) (off : Imm3) : Statement (.bne rs rt off) := by
  revert off
  cases rs <;> cases rt <;> (unfold Statement; decide)
theorem jext (off : Off9) : Statement (.jext off) := by
  unfold Statement
  apply BitVec.eq_of_getLsbD_eq
  intro i hi
  simp only [encode, encX, Instr.tableMask, Instr.tableMatch, BitVec.getLsbD_and, BitVec.getLsbD_append]
  interval_cases i <;> simp

end Sys2Proof.Laws.TableRow
end

