-- ==== Sys2Proof/Laws/State.lean ====
section
/-! SUPPORT. One lemma per field per update of State, so that no proof unfolds a record update. -/

namespace Sys2Proof.Machine

variable (s : State) (r q : Reg) (v : Word) (m : Memory)

@[simp] theorem State.setPc_r1 : (s.setPc v).r1 = s.r1 := rfl
@[simp] theorem State.setPc_r2 : (s.setPc v).r2 = s.r2 := rfl
@[simp] theorem State.setPc_r3 : (s.setPc v).r3 = s.r3 := rfl
@[simp] theorem State.setPc_pc : (s.setPc v).pc = v := rfl
@[simp] theorem State.setPc_imem : (s.setPc v).imem = s.imem := rfl
@[simp] theorem State.setPc_dmem : (s.setPc v).dmem = s.dmem := rfl
@[simp] theorem State.setPc_config : (s.setPc v).config = s.config := rfl

@[simp] theorem State.advance_pc : s.advance.pc = s.nextPc := rfl
@[simp] theorem State.advance_imem : s.advance.imem = s.imem := rfl
@[simp] theorem State.advance_dmem : s.advance.dmem = s.dmem := rfl
@[simp] theorem State.advance_config : s.advance.config = s.config := rfl

@[simp] theorem State.setDmem_r1 : (s.setDmem m).r1 = s.r1 := rfl
@[simp] theorem State.setDmem_r2 : (s.setDmem m).r2 = s.r2 := rfl
@[simp] theorem State.setDmem_r3 : (s.setDmem m).r3 = s.r3 := rfl
@[simp] theorem State.setDmem_pc : (s.setDmem m).pc = s.pc := rfl
@[simp] theorem State.setDmem_imem : (s.setDmem m).imem = s.imem := rfl
@[simp] theorem State.setDmem_dmem : (s.setDmem m).dmem = m := rfl
@[simp] theorem State.setDmem_config : (s.setDmem m).config = s.config := rfl

@[simp] theorem State.memWrite_pc (ea : Word) : (s.memWrite ea v).pc = s.pc := rfl
@[simp] theorem State.memWrite_imem (ea : Word) : (s.memWrite ea v).imem = s.imem := rfl
@[simp] theorem State.memWrite_dmem (ea : Word) : (s.memWrite ea v).dmem = s.dmem.write ea.toNat v := rfl
@[simp] theorem State.memWrite_config (ea : Word) : (s.memWrite ea v).config = s.config := rfl

@[simp] theorem State.setReg_pc : (s.setReg r v).pc = s.pc := by cases r <;> rfl
@[simp] theorem State.setReg_imem : (s.setReg r v).imem = s.imem := by cases r <;> rfl
@[simp] theorem State.setReg_dmem : (s.setReg r v).dmem = s.dmem := by cases r <;> rfl
@[simp] theorem State.setReg_config : (s.setReg r v).config = s.config := by cases r <;> rfl
@[simp] theorem State.setReg_nextPc : (s.setReg r v).nextPc = s.nextPc := by cases r <;> rfl
@[simp] theorem State.memWrite_nextPc (ea : Word) : (s.memWrite ea v).nextPc = s.nextPc := rfl

/-! The registers through `State.reg`. -/

@[simp] theorem State.reg_setPc : (s.setPc v).reg q = s.reg q := by cases q <;> rfl
@[simp] theorem State.reg_advance : s.advance.reg q = s.reg q := by cases q <;> rfl
@[simp] theorem State.reg_setDmem : (s.setDmem m).reg q = s.reg q := by cases q <;> rfl
@[simp] theorem State.reg_memWrite (ea : Word) : (s.memWrite ea v).reg q = s.reg q := by cases q <;> rfl

/-- What a register reads after a write: R0 is 0, the register written holds the value, every other one is as before. -/
theorem State.reg_setReg :
    (s.setReg r v).reg q = if q = .r0 then 0x000#12 else if q = r then v else s.reg q := by
  cases r <;> cases q <;> rfl

/-- Two states with the same registers, pc, memories and configuration are the same state. -/
theorem State.eq_of_parts {s t : State} (hr : ∀ q : Reg, s.reg q = t.reg q) (hp : s.pc = t.pc)
    (hi : s.imem = t.imem) (hd : s.dmem = t.dmem) (hc : s.config = t.config) : s = t := by
  have h1 := hr .r1
  have h2 := hr .r2
  have h3 := hr .r3
  cases s
  cases t
  simp_all [State.reg]

end Sys2Proof.Machine
end

