-- ==== Sys2Proof/Laws/Step.lean ====
section
/-! SUPPORT. What the shared operations, the meanings and a step can do, said once. -/

namespace Sys2Proof.Machine

/-- A fetch gives a word exactly when pc has an instruction and the word is the one there. -/
theorem State.fetch_eq_some {s : State} {w : Word} : s.fetch = some w ↔ s.Fetches w := by
  unfold State.fetch State.Fetches
  split <;> simp [*]

theorem State.fetch_eq_none {s : State} : s.fetch = none ↔ s.config.imemWords ≤ s.pc.toNat := by
  unfold State.fetch
  split <;> simp <;> omega

/-- A data access goes on exactly when its address exists. -/
theorem State.atData_next {s k t : State} {ea : Word} :
    s.atData ea k = .next t ↔ ea.toNat < s.config.dmemWords ∧ t = k := by
  unfold State.atData
  split <;> simp [*, eq_comm]

theorem State.atData_of_lt {s : State} {ea : Word} (k : State) (h : ea.toNat < s.config.dmemWords) :
    s.atData ea k = .next k := by
  simp [State.atData, h]

theorem State.atData_of_ge {s : State} {ea : Word} (k : State) (h : s.config.dmemWords ≤ ea.toNat) :
    s.atData ea k = .fault (.dataAddressOutOfRange s.pc ea) := by
  simp [State.atData, Nat.not_lt.mpr h]

/-- Everything an instruction that goes on can have done: written its destination and advanced; stored and advanced; or
set pc alone. -/
theorem exec_next_cases {i : Instr} {s t : State} (h : exec i s = .next t) :
    (∃ rd v, destination i = some rd ∧ t = (s.setReg rd v).advance) ∨
    (∃ rt rs imm, i = .str rt rs imm ∧ (s.ea rs imm).toNat < s.config.dmemWords ∧
      t = (s.memWrite (s.ea rs imm) (s.reg rt)).advance) ∨
    (destination i = none ∧ isStore i = false ∧ ∃ p, t = s.setPc p) := by
  cases i with
  | add rd rs rt | sub rd rs rt | and rd rs rt | or rd rs rt | xor rd rs rt | shl rd rs rt | shr rd rs rt =>
    cases h
    exact .inl ⟨rd, _, rfl, rfl⟩
  | addi rd rs imm | subi rd rs imm =>
    cases h
    exact .inl ⟨rd, _, rfl, rfl⟩
  | ld rd rs imm => exact .inl ⟨rd, _, rfl, (State.atData_next.mp h).2⟩
  | str rt rs imm =>
    obtain ⟨hlt, rfl⟩ := State.atData_next.mp h
    exact .inr (.inl ⟨rt, rs, imm, rfl, hlt, rfl⟩)
  | nop =>
    cases h
    exact .inr (.inr ⟨rfl, rfl, _, rfl⟩)
  | beq rs rt off | bne rs rt off =>
    cases h
    refine .inr (.inr ⟨rfl, rfl, ?_⟩)
    unfold State.branch
    split
    · exact ⟨_, rfl⟩
    · exact ⟨_, rfl⟩
  | jext off =>
    simp only [exec, execJext] at h
    split at h
    · cases h
      exact .inr (.inr ⟨rfl, rfl, _, rfl⟩)
    · cases h

/-- A step that goes on fetched a word, decoded it, and executed the instruction. -/
theorem step_next_cases {s t : State} (h : step s = .next t) :
    ∃ w i, s.Fetches w ∧ decode s.config.jextEnabled w = .ok i ∧ exec i s = .next t := by
  unfold step at h
  split at h
  · cases h
  · next w hw =>
    split at h
    · cases h
    · next i hi => exact ⟨w, i, State.fetch_eq_some.mp hw, hi, h⟩

end Sys2Proof.Machine
end

