-- ==== Sys2Proof/Tests/Slice0.lean ====
section
/-! SUPPORT. Small tests of the model. Expected values come from spec/95_test_vectors.md (T<n>, V<n>) and from the encodings
of spec/30_encoding.md; the second part holds the witnesses: states and operands that meet the hypotheses of the
statements. -/

namespace Sys2Proof.Machine.Tests

/-- A machine with the word `w` at pc `p`, three register values and some data words, by default parameters. -/
def at1 (p w x1 x2 x3 : Word) (d : Memory) : State :=
  { State.launch Config.default x1 x2 x3 [] d with pc := p, imem := Memory.write [] p.toNat w }

/-- A small machine: 16 instruction words, 256 data words, JEXT present. -/
def small : Config := { imemWords := 16, dmemWords := 256, jextEnabled := true, shrFill := .zero }

def pcAfter (s : State) : Option Word := match step s with | .next t => some t.pc | _ => none
def regAfter (s : State) (r : Reg) : Option Word := match step s with | .next t => some (t.reg r) | _ => none
def wordAfter (s : State) (a : Nat) : Option Word := match step s with | .next t => some (t.dmem.read a) | _ => none
def faultOf (s : State) : Option Fault := match step s with | .fault f => some f | _ => none

/-! ### Well-formedness: an ill-formed term for the one check -/

theorem test_wellFormed_refuses_absent_jext : Instr.wellFormed Config.default (.jext 0x001#9) = false := by decide
theorem test_wellFormed_accepts_present_jext : Instr.wellFormed small (.jext 0x001#9) = true := by decide

/-! ### Decoding, each constructor from its word written out field by field -/

theorem test_decode_add : decode false 0b000_000_01_10_11#12 = .ok (.add .r1 .r2 .r3) := rfl
theorem test_decode_sub : decode false 0b000_001_11_01_10#12 = .ok (.sub .r3 .r1 .r2) := rfl
theorem test_decode_and : decode false 0b000_010_01_10_11#12 = .ok (.and .r1 .r2 .r3) := rfl
theorem test_decode_or : decode false 0b000_011_01_10_11#12 = .ok (.or .r1 .r2 .r3) := rfl
theorem test_decode_xor : decode false 0b000_100_01_01_10#12 = .ok (.xor .r1 .r1 .r2) := rfl
theorem test_decode_shl : decode false 0b000_101_01_10_11#12 = .ok (.shl .r1 .r2 .r3) := rfl
theorem test_decode_shr : decode false 0b000_110_10_01_11#12 = .ok (.shr .r2 .r1 .r3) := rfl
theorem test_decode_nop : decode false 0b000_111_01_10_11#12 = .ok .nop := rfl
theorem test_decode_addi : decode false 0b001_110_10_01_00#12 = .ok (.addi .r2 .r1 0b110#3) := rfl
theorem test_decode_subi : decode false 0b010_001_10_10_00#12 = .ok (.subi .r2 .r2 0b001#3) := rfl
theorem test_decode_ld : decode false 0b011_110_10_01_00#12 = .ok (.ld .r2 .r1 0b110#3) := rfl
theorem test_decode_str : decode false 0b100_011_00_10_01#12 = .ok (.str .r1 .r2 0b011#3) := rfl
theorem test_decode_beq : decode false 0b101_001_0_0_01_10#12 = .ok (.beq .r1 .r2 0b001#3) := rfl
theorem test_decode_bne : decode false 0b101_110_1_0_01_11#12 = .ok (.bne .r1 .r3 0b110#3) := rfl
theorem test_decode_jext : decode true 0b111_001100100#12 = .ok (.jext 0x064#9) := rfl
theorem test_decode_reserved : -- T93, T97, T99, T101, T104
    decode false 0x201#12 = .error .reservedRt ∧ decode false 0x810#12 = .error .reservedRd ∧
    decode false 0xA10#12 = .error .reservedPad ∧ decode false 0xC00#12 = .error .opcode110 ∧
    decode false 0xE00#12 = .error .opcode111 := ⟨rfl, rfl, rfl, rfl, rfl⟩
theorem test_encode_of_noncanonical_nop : (decode false 0x1FF#12).toOption.map encode = some 0x1C0#12 := rfl
theorem test_decodeTableWord_jext : decodeTableWord 12 0xFFF = some (.jext 0x1FF#9) := by decide
theorem test_decodeTableWord_needs_twelve_bits : decodeTableWord 16 0x1000 = none := by decide

/-! ### One step of each instruction -/

theorem test_add_T3 : regAfter (at1 0x010#12 0x01B#12 0x000#12 0x7FF#12 0x001#12 []) .r1 = some 0x800#12 := by decide
theorem test_add_T6 : -- the source is the destination, and pc wraps
    regAfter (at1 0xFFF#12 0x015#12 0x801#12 0 0 []) .r1 = some 0x002#12 ∧
    pcAfter (at1 0xFFF#12 0x015#12 0x801#12 0 0 []) = some 0x000#12 := by decide
theorem test_sub_T9 : regAfter (at1 0 0x076#12 0x005#12 0x007#12 0 []) .r3 = some 0xFFE#12 := by decide
theorem test_and_T14 : regAfter (at1 0 0x09B#12 0 0xF0F#12 0x3C5#12 []) .r1 = some 0x305#12 := by decide
theorem test_or_T15 : regAfter (at1 0 0x0DB#12 0 0xF0F#12 0x3C5#12 []) .r1 = some 0xFCF#12 := by decide
theorem test_xor_T16 : regAfter (at1 0 0x11B#12 0 0xF0F#12 0x3C5#12 []) .r1 = some 0xCCA#12 := by decide
theorem test_shl_T24 : regAfter (at1 0 0x15B#12 0 0x001#12 0x00C#12 []) .r1 = some 0x000#12 := by decide
theorem test_shl_T28 : regAfter (at1 0 0x15B#12 0 0x0AB#12 0x014#12 []) .r1 = some 0xAB0#12 := by decide
theorem test_shr_T33 : regAfter (at1 0 0x19B#12 0 0x800#12 0x001#12 []) .r1 = some 0x400#12 := by decide
theorem test_shr_T34_arithmetic : -- the "arithmetic variant" of T34
    shiftRight .sign 0x800#12 (shiftAmount 0x00B#12) = 0xFFF#12 := by decide
theorem test_nop_T44 : -- the rd bits of the word name R1, which is not written
    regAfter (at1 0x005#12 0x1DB#12 1 2 3 [(7, 9)]) .r1 = some 1 ∧
    pcAfter (at1 0x005#12 0x1DB#12 1 2 3 [(7, 9)]) = some 0x006#12 := by decide
theorem test_addi_T49 : regAfter (at1 0 0x314#12 0x002#12 0 0 []) .r1 = some 0xFFE#12 := by decide
theorem test_addi_T51 : -- destination R0
    regAfter (at1 0 0x2C4#12 0x005#12 0 0 []) .r0 = some 0x000#12 ∧
    pcAfter (at1 0 0x2C4#12 0x005#12 0 0 []) = some 0x001#12 := by decide
theorem test_subi_T57 : regAfter (at1 0 0x514#12 0xFFE#12 0 0 []) .r1 = some 0x002#12 := by decide
theorem test_ld_T65 : regAfter (at1 0 0x7D0#12 0 0 0 [(0xFFF, 0x789#12)]) .r1 = some 0x789#12 := by decide
theorem test_ld_T68 : regAfter (at1 0 0x614#12 0x005#12 0 0 [(5, 0x777#12)]) .r1 = some 0x777#12 := by decide
theorem test_str_T72 : wordAfter (at1 0 0x90B#12 0 0x010#12 0xFED#12 []) 0x00C = some 0xFED#12 := by decide
theorem test_str_T74 : wordAfter (at1 0 0x84A#12 0 0xFFF#12 0 []) 0x000 = some 0xFFF#12 := by decide
theorem test_beq_T77 :
    pcAfter (at1 0x010#12 0xB06#12 7 7 0 []) = some 0x00D#12 ∧
    pcAfter (at1 0x010#12 0xB06#12 7 8 0 []) = some 0x011#12 := by decide
theorem test_bne_T84 :
    pcAfter (at1 0x010#12 0xAE6#12 7 7 0 []) = some 0x011#12 ∧
    pcAfter (at1 0x010#12 0xAE6#12 7 8 0 []) = some 0x014#12 := by decide
theorem test_jext_runs : -- section 2.12: JEXT +100 at 0x010, and JEXT -256 at 0x000
    pcAfter ({ at1 0x010#12 0xE64#12 0 0 0 [] with config := { small with imemWords := 4096 } }) = some 0x075#12 ∧
    pcAfter ({ at1 0x000#12 0xF00#12 0 0 0 [] with config := small }) = some 0xF01#12 := by decide
theorem test_jext_absent_T105 :
    faultOf (at1 0x002#12 0xFFF#12 0 0 0 []) = some (.illegalInstruction 0x002#12 0xFFF#12) := by decide
theorem test_illegal_T103 :
    faultOf (at1 0x002#12 0xD1E#12 0 0 0 []) = some (.illegalInstruction 0x002#12 0xD1E#12) := by decide
theorem test_small_memory_faults : -- section 2.13: T65 and LD R0, [R0 - 1] with DMEM_WORDS = 256, pc = 0x010 with IMEM_WORDS = 16
    faultOf ({ at1 0 0x7D0#12 0 0 0 [] with config := small }) = some (.dataAddressOutOfRange 0 0xFFF#12) ∧
    faultOf ({ at1 0 0x7C0#12 0 0 0 [] with config := small }) = some (.dataAddressOutOfRange 0 0xFFF#12) ∧
    faultOf ({ at1 0x010#12 0x000#12 0 0 0 [] with config := small }) = some (.fetchOutOfRange 0x010#12) := by decide
theorem test_first_step_after_reset : -- zero-filled instruction memory is ADD R0, R0, R0 (R74)
    pcAfter State.reset = some 0x001#12 := by decide
theorem test_withFetchWord_first : pcAfter (State.reset.withFetchWord 12 0xE01) = some 0x002#12 := by decide

/-! ### Assembler notation -/

theorem test_asm_addi : parseLine "ADDI R2, R1, -2 # V5".toList = some ⟨[], some (.plain (.addi .r2 .r1 0b110#3))⟩ := by
  decide
theorem test_asm_bnq_dash : parseLine "BNQ R1,R3, –2".toList = some ⟨[], some (.plain (.bne .r1 .r3 0b110#3))⟩ := by decide
theorem test_asm_str : parseLine "loop: STR R1, [R3 + 0]".toList =
    some ⟨["loop".toList], some (.plain (.str .r1 .r3 0b000#3))⟩ := by decide
theorem test_asm_refuses_range : parseLine "BEQ R0, R0, +4".toList = none := by decide
theorem test_asm_refuses_name : parseLine "ADD SP, R1, R2".toList = none := by decide
theorem test_asm_program : -- the words V14 gives for the call and return skeleton
    assemble 0 ["ADDI R1, R0, 3".toList, "ADDI R2, R0, 2".toList, "BEQ R0, R0, func ; call".toList,
      "func:".toList, "ADD R1, R1, R2".toList, "BEQ R0, R0, ret".toList, "ret:".toList] =
    some [0x2D0#12, 0x2A0#12, 0xA00#12, 0x016#12, 0xA00#12] := by decide
theorem test_asm_comment_of_any_characters : -- V13
    parseLine "ADDI R1, R0, 3    # R1 ← 0 + 3".toList = some ⟨[], some (.plain (.addi .r1 .r0 0b011#3))⟩ := by decide
theorem test_asm_comment_line : parseLine "    # --- Função != após".toList = some ⟨[], none⟩ := by decide
theorem test_asm_binary_fields : -- V9, with the source's comment
    parseLine "   101 001 0 0 01 10  ; BEQ R1,R2, +1".toList = some ⟨[], some (.bits 0xA46#12)⟩ := by decide
theorem test_asm_refuses_eleven_bits : parseLine "10100100110".toList = none := by decide -- C11
theorem test_asm_source_loop : -- V12, the listing as printed
    assemble 0 ["; Inicializa contador R3 = 3".toList, "011 011 11 00 00  ; ADDI R3,R0,+3".toList, "".toList,
      "loop:".toList, "100 000 00 10 00  ; STR R0,[R2+0]".toList, "011 001 00 00 00  ; ADDI R0,R0,+1".toList,
      "101 110 1 0 00 10 ; BNQ R0,R3,–2   ; volta ao STR se R0 != R3".toList] =
    some [0x6F0#12, 0x808#12, 0x640#12, 0xBA2#12] := by decide
theorem test_asm_idioms : -- R165, R166
    (push .r1).map encode = [0x3FC#12, 0x80D#12] ∧ (pop .r1).map encode = [0x61C#12, 0x27C#12] := by decide
theorem test_ifElse : -- the SUB and ADD of P2 under the IF / ELSE shape of R168
    (ifElse .r1 .r2 [.add .r3 .r1 .r2] [.sub .r3 .r1 .r2]).map (·.map encode) =
    some [0xAA6#12, 0x036#12, 0xA40#12, 0x076#12] := by decide
theorem test_loop_too_long : loopWhileNe .r1 .r3 [.nop, .nop, .nop, .nop] = none := by decide
theorem test_convention : savedBy stackPointer = .callee ∧ savedBy returnReg = .caller := by decide

/-! ### Witnesses: the hypotheses of the statements are met -/

/-- A state in which every plain hypothesis holds: 4096 words each, R1 = 5, R2 = 7, R3 = 0x010, one data word. -/
def w0 : State := at1 0x002#12 0x01B#12 0x005#12 0x007#12 0x010#12 [(5, 0x777#12)]

/-- The same with the small memories and JEXT. -/
def w1 : State := { w0 with config := small }

theorem test_witness_RegisterZeroIsConstant :
    destination (.add .r0 .r2 .r3) = some .r0 ∧ ∃ t, exec (.add .r0 .r2 .r3) w0 = .next t := ⟨rfl, _, rfl⟩
theorem test_witness_RegisterReadAfterWrite : Reg.r1 ≠ .r0 ∧ (w0.setReg .r1 0xFFF#12).reg .r1 = 0xFFF#12 := by decide
theorem test_witness_SubiIsAddiOfNegation : (0b011#3 : Imm3) ≠ 0b100#3 ∧ (0b101#3 : Imm3) ≠ 0b100#3 := by decide
theorem test_witness_LdInstruction_next : -- ea = 0xFF, the last word of a memory of 256
    (w1.setReg .r1 0x0FF#12).reg .r1 + sext3 0b000#3 = 0x0FF#12 ∧
    BitVec.ofInt 12 (((w1.setReg .r1 0x0FF#12).reg .r1).toNat + (0b000#3 : Imm3).toInt) = 0x0FF#12 ∧
    (0x0FF#12).toNat < w1.config.dmemWords := by decide
theorem test_witness_LdInstruction_fault : -- ea = 0x100, the first word beyond it
    BitVec.ofInt 12 (((w1.setReg .r1 0x0FF#12).reg .r1).toNat + (0b001#3 : Imm3).toInt) = 0x100#12 ∧
    w1.config.dmemWords ≤ (0x100#12).toNat := by decide
theorem test_witness_StrInstruction_next : -- ea = 0xFF, the last word of a memory of 256
    BitVec.ofInt 12 (((w1.setReg .r1 0x0FF#12).reg .r1).toNat + (0b000#3 : Imm3).toInt) = 0x0FF#12 ∧
    (0x0FF#12).toNat < w1.config.dmemWords := by decide
theorem test_witness_StrInstruction_fault : -- ea = 0x100, the first word beyond it
    BitVec.ofInt 12 (((w1.setReg .r1 0x103#12).reg .r1).toNat + (0b101#3 : Imm3).toInt) = 0x100#12 ∧
    w1.config.dmemWords ≤ (0x100#12).toNat := by decide
theorem test_witness_LoadIntoRegisterZero :
    (w1.reg .r1 + sext3 0b000#3).toNat < w1.config.dmemWords ∧
    w1.config.dmemWords ≤ (w1.reg .r0 + sext3 0b111#3).toNat := by decide
theorem test_witness_LoadAfterStore :
    ∃ t, exec (.str .r2 .r1 0b000#3) w0 = .next t ∧ t.reg .r1 + sext3 0b000#3 = w0.reg .r1 + sext3 0b000#3 :=
  ⟨_, rfl, rfl⟩
theorem test_witness_PushThenPop :
    Reg.r1 ≠ .r3 ∧ Reg.r2 ≠ .r3 ∧ (w1.reg .r3 - 1#12).toNat < w1.config.dmemWords := by decide
theorem test_witness_BranchTargetTable :
    (∃ t, exec (.beq .r1 .r1 0b100#3) w0 = .next t ∧ w0.reg .r1 = w0.reg .r1) ∧
    ∃ t, exec (.bne .r1 .r2 0b011#3) w0 = .next t ∧ w0.reg .r1 ≠ w0.reg .r2 :=
  ⟨⟨_, rfl, rfl⟩, _, rfl, by decide⟩
theorem test_witness_BranchOffsetsZeroAndMinusOne : w0.reg .r1 = w0.reg .r1 ∧ w0.reg .r1 ≠ w0.reg .r2 := by decide
theorem test_witness_JextInstruction : w1.config.jextEnabled = true := rfl
theorem test_witness_JextAbsentIsIllegal : w0.config.jextEnabled = false := rfl
theorem test_witness_NextPcOfEachInstruction :
    (∃ t, exec (.beq .r1 .r2 0b111#3) w0 = .next t) ∧ (∃ t, exec (.bne .r1 .r2 0b111#3) w0 = .next t) ∧
    (∃ t, exec (.jext 0x100#9) w1 = .next t) ∧ ∃ t, exec (.ld .r1 .r1 0b000#3) w0 = .next t :=
  ⟨⟨_, rfl⟩, ⟨_, rfl⟩, ⟨_, rfl⟩, _, rfl⟩
theorem test_witness_AtMostTwoSuccessors_next : w0.Fetches 0x01B#12 ∧ ∃ t, step w0 = .next t :=
  ⟨⟨by decide, by decide⟩, _, rfl⟩
theorem test_witness_AtMostTwoSuccessors_branch : -- T77, taken: to 0x00D, not to 0x011
    (at1 0x010#12 0xB06#12 7 7 0 []).Fetches 0xB06#12 ∧
    ∃ t, step (at1 0x010#12 0xB06#12 7 7 0 []) = .next t ∧ t.pc = 0x00D#12 ∧ (0xB06#12).extractLsb' 9 3 = 0b101#3 :=
  ⟨⟨by decide, by decide⟩, _, rfl, by decide, by decide⟩
theorem test_witness_AtMostTwoSuccessors_jump : -- JEXT -256 at 0x000 goes to 0xF01
    (State.reset.withFetchWord 12 0xF00).Fetches 0xF00#12 ∧
    ∃ t, step (State.reset.withFetchWord 12 0xF00) = .next t ∧ t.pc = 0xF01#12 ∧ (0xF00#12).extractLsb' 9 3 = 0b111#3 :=
  ⟨⟨by decide, by decide⟩, _, rfl, by decide, by decide⟩
theorem test_witness_AddressesWrap :
    (w0.setPc 0xFFF#12).pc = 0xFFF#12 ∧ State.reset.pc = 0x000#12 ∧ w0.reg .r0 = 0x000#12 ∧
    (w0.setReg .r1 0xFFF#12).reg .r1 = 0xFFF#12 := by decide
theorem test_witness_StepRunsDecodedInstruction :
    w0.Fetches 0x01B#12 ∧ decode w0.config.jextEnabled 0x01B#12 = .ok (.add .r1 .r2 .r3) :=
  ⟨⟨by decide, by decide⟩, rfl⟩
theorem test_witness_IllegalWordFaults :
    (at1 0 0xFFF#12 0 0 0 []).Fetches 0xFFF#12 ∧
    decode (at1 0 0xFFF#12 0 0 0 []).config.jextEnabled 0xFFF#12 = .error .opcode111 :=
  ⟨⟨by decide, by decide⟩, rfl⟩
theorem test_witness_FetchBeyondMemoryFaults : (w1.setPc 0x010#12).config.imemWords ≤ (w1.setPc 0x010#12).pc.toNat := by
  decide
theorem test_witness_OnlyTheseInstructionFaults :
    exec (.ld .r1 .r0 0b111#3) w1 = .fault (.dataAddressOutOfRange 0x002#12 0xFFF#12) ∧
    exec (.str .r1 .r0 0b100#3) w1 = .fault (.dataAddressOutOfRange 0x002#12 0xFFC#12) ∧
    exec (.jext 0x1FF#9) w0 = .fault (.illegalInstruction 0x002#12 0xFFF#12) := ⟨rfl, rfl, rfl⟩
theorem test_witness_FullMemoriesLeaveOnlyIllegalWords :
    w0.config.imemWords = 4096 ∧ w0.config.dmemWords = 4096 := ⟨rfl, rfl⟩
theorem test_witness_OnlyDestinationRegisterChanges :
    ∃ t, exec (.ld .r1 .r1 0b000#3) w0 = .next t ∧ destination (.ld .r1 .r1 0b000#3) ≠ some .r2 :=
  ⟨_, rfl, by decide⟩
theorem test_witness_DataMemoryReachedOnlyByLoadAndStore :
    (∃ t, exec .nop w0 = .next t ∧ isStore .nop = false ∧ isDataAccess .nop = false) ∧
    (∃ t, exec (.str .r2 .r1 0b000#3) w0 = .next t ∧ 6 ≠ (w0.reg .r1 + sext3 0b000#3).toNat) ∧
    ∃ t, exec (.ld .r2 .r1 0b000#3) w0 = .next t ∧
      Memory.read [(5, 0x777#12), (6, 0x001#12)] (w0.reg .r1 + sext3 0b000#3).toNat =
        w0.dmem.read (w0.reg .r1 + sext3 0b000#3).toNat :=
  ⟨⟨_, rfl, rfl, rfl⟩, ⟨_, rfl, by decide⟩, _, rfl, by decide⟩
theorem test_witness_StepKeepsProgramAndParameters : ∃ t, step w0 = .next t := ⟨_, rfl⟩
theorem test_witness_ResultDependsOnlyOnSources : -- the two states differ in R3, which ADDI R1, R2 does not read
    (∀ r ∈ sources (.addi .r1 .r2 0b001#3), (w0.setReg .r3 0x123#12).reg r = w0.reg r) ∧
    (w0.setReg .r3 0x123#12).reg .r3 ≠ w0.reg .r3 ∧ ∃ t, exec (.addi .r1 .r2 0b001#3) w0 = .next t :=
  ⟨by decide, by decide, _, rfl⟩
theorem test_witness_InvariantAtLaunch :
    small.wf ∧ 14 + [0x01B#12, 0xBC0#12].length ≤ small.imemWords ∧ 255 + [0x777#12].length ≤ small.dmemWords := by
  decide
theorem test_witness_StepKeepsInvariant : w0.Inv ∧ ∃ t, step w0 = .next t :=
  ⟨by unfold State.Inv; decide, _, rfl⟩
theorem test_witness_CanonicalMemoriesEqual :
    Memory.wf (Memory.write [(7, 0x002#12)] 3 0x001#12) ∧ Memory.wf [(3, 0x001#12), (7, 0x002#12)] ∧
    ∀ a : Nat, (Memory.write [(7, 0x002#12)] 3 0x001#12).read a = Memory.read [(3, 0x001#12), (7, 0x002#12)] a :=
  ⟨by decide, by decide, fun _ => rfl⟩
theorem test_witness_LaunchPlacesItsParameters :
    [0x01B#12, 0xBC0#12][1]? = some 0xBC0#12 ∧ (Memory.ofWords 14 [0x01B#12, 0xBC0#12]).read 15 = 0xBC0#12 := by decide
theorem test_witness_DecodeOfEncode :
    Instr.wellFormed small (.jext 0x100#9) = true ∧ Instr.wellFormed Config.default (.str .r3 .r0 0b100#3) = true := by
  decide
theorem test_witness_EncodeOfDecode :
    decode false 0x1DB#12 = .ok .nop ∧ decode false 0x90B#12 = .ok (.str .r3 .r2 0b100#3) := ⟨rfl, rfl⟩
theorem test_witness_DecoderAgreesWithOpcodeTable :
    decode true 0xBA7#12 = .ok (.bne .r1 .r3 0b110#3) ∧
    0xBA7#12 &&& (Instr.bne .r0 .r0 0b000#3).tableMask = (Instr.bne .r0 .r0 0b000#3).tableMatch := ⟨rfl, by decide⟩
theorem test_witness_PlacedWordRuns :
    State.reset.pc.toNat < State.reset.config.imemWords ∧ decodeTableWord 12 0xE64 = some (.jext 0x064#9) := by decide
theorem test_witness_ImmediateRangeIsRefused :
    imm3Of (-4) = some 0b100#3 ∧ imm3Of 3 = some 0b011#3 ∧ imm3Of 4 = none ∧ imm3Of (-5) = none := by decide
theorem test_witness_LabelOffsetReachesLabel : -- the branch of P1: from 6 back to 3
    labelOffset 3 6 = some 0b100#3 ∧ (w0.setPc 0x006#12).pc = BitVec.ofNat 12 6 := by decide
theorem test_witness_TerminalStatesAreSelfLoops : -- T85, and a state that is not terminal
    (at1 0x007#12 0xBC0#12 0 0 0 []).Terminal ∧ pcAfter w0 ≠ some w0.pc := ⟨rfl, by decide⟩

end Sys2Proof.Machine.Tests
end

