-- ==== Sys2Proof/Proofs/SignExtension.lean ====
section
/-! PROOFS. The sign extensions of R9, bit by bit and as numbers. -/

namespace Sys2Proof.Machine

/-- Bits at or above the sign bit `m` repeat it; bits below it are kept. -/
theorem getLsbD_signExtend_eq_min {m n i : Nat} (v : BitVec (m + 1)) (hi : i < n) :
    (v.signExtend n).getLsbD i = v.getLsbD (min i m) := by
  rw [BitVec.getLsbD_signExtend, decide_eq_true hi, Bool.true_and]
  split
  next hlow => rw [Nat.min_eq_left (by omega)]
  next hhigh => rw [Nat.min_eq_right (by omega), BitVec.msb_eq_getLsbD_last, Nat.add_sub_cancel]

theorem getLsbD_sext3 (v : Imm3) {i : Nat} (hi : i < 12) :
    (sext3 v).getLsbD i = v.getLsbD (min i 2) :=
  getLsbD_signExtend_eq_min v hi

theorem getLsbD_sext9 (v : Off9) {i : Nat} (hi : i < 12) :
    (sext9 v).getLsbD i = v.getLsbD (min i 8) :=
  getLsbD_signExtend_eq_min v hi

/-- The repeated sign bit weighs `2 ^ 12 - 2 ^ 3 = 4088`. -/
theorem toNat_sext3 (v : Imm3) :
    (sext3 v).toNat = if v.toNat < 4 then v.toNat else v.toNat + 4088 := by
  have hkeep : (v.setWidth 12).toNat = v.toNat := BitVec.toNat_setWidth_of_le (by decide)
  have hsign : v.msb = true ↔ ¬ v.toNat < 4 := by simp [BitVec.msb_eq_decide]
  unfold sext3
  rw [BitVec.toNat_signExtend, hkeep]
  by_cases h : v.toNat < 4 <;> simp [hsign, h]

end Sys2Proof.Machine

open Sys2Proof.Machine

/-- Settles O1: the two bit laws are one fact about sign extension, the number its value at 3 bits. -/
theorem signExtension : Obligations.SignExtension :=
  ⟨fun v _ hi => getLsbD_sext3 v hi, toNat_sext3, fun v _ hi => getLsbD_sext9 v hi⟩

end

section
/-! PROOFS. The registers of R20 and R21: index and register determine each other; R0 is the constant zero. -/

namespace Sys2Proof

@[simp] theorem Reg.ofBits_bits (r : Reg) : Reg.ofBits r.bits = r := by cases r <;> rfl

@[simp] theorem Reg.bits_ofBits : ∀ b : BitVec 2, (Reg.ofBits b).bits = b := by decide

end Sys2Proof

namespace Sys2Proof.Machine

@[simp] theorem State.reg_r0 (s : State) : s.reg .r0 = 0x000#12 := rfl

@[simp] theorem State.setReg_r0 (s : State) (v : Word) : s.setReg .r0 v = s := rfl

/-- An instruction with a destination writes that register and advances pc, and does nothing else. -/
theorem exec_next_of_destination {i : Instr} {s t : State} {rd : Reg} (hd : destination i = some rd)
    (h : exec i s = .next t) : ∃ v, t = (s.setReg rd v).advance := by
  obtain ⟨rd', v, hd', rfl⟩ | ⟨rt, rs, imm, rfl, -⟩ | ⟨hnone, -⟩ := exec_next_cases h
  · obtain rfl : rd' = rd := Option.some.inj (hd'.symm.trans hd)
    exact ⟨v, rfl⟩
  · cases hd
  · cases hnone.symm.trans hd

/-- With destination R0 the write is discarded (R21), and only the advance is left. -/
theorem exec_next_of_destination_r0 {i : Instr} {s t : State} (hd : destination i = some .r0)
    (h : exec i s = .next t) : t = s.advance := by
  obtain ⟨v, rfl⟩ := exec_next_of_destination hd h
  rw [State.setReg_r0]

end Sys2Proof.Machine

open Sys2Proof Sys2Proof.Machine

/-- Settles O3: the read and the write by the model's register access, the instructions by the discarded write. -/
theorem registerZeroIsConstant : Obligations.RegisterZeroIsConstant :=
  ⟨State.reg_r0, State.setReg_r0, fun _ _ _ hd h => exec_next_of_destination_r0 hd h⟩

/-- Settles O2: the four indices by evaluation, the rest by the two inverse laws. -/
theorem registerIndices : Obligations.RegisterIndices :=
  ⟨rfl, rfl, rfl, rfl, Reg.ofBits_bits, Reg.bits_ofBits⟩

end

section
/-! PROOFS. The fields of a word laid out as `opcode funct3 rd rs rt` (R61, R62), and R69's choice by funct3. -/

namespace Sys2Proof

variable (op f : BitVec 3) (d a b : BitVec 2)

@[simp] theorem fieldT_append : fieldT (op ++ f ++ d ++ a ++ b) = b :=
  BitVec.extractLsb'_append_eq_right

@[simp] theorem fieldS_append : fieldS (op ++ f ++ d ++ a ++ b) = a :=
  (BitVec.extractLsb'_append_eq_of_le (by decide)).trans BitVec.extractLsb'_append_eq_right

@[simp] theorem fieldD_append : fieldD (op ++ f ++ d ++ a ++ b) = d := by
  calc fieldD (op ++ f ++ d ++ a ++ b)
    _ = (op ++ f ++ d ++ a).extractLsb' 2 2 := BitVec.extractLsb'_append_eq_of_le (by decide)
    _ = (op ++ f ++ d).extractLsb' 0 2 := BitVec.extractLsb'_append_eq_of_le (by decide)
    _ = d := BitVec.extractLsb'_append_eq_right

/-- The fields above the three register fields lie in the word without its low 6 bits. -/
theorem extractLsb'_append_registers {start len : Nat} (h : 6 ≤ start) :
    (op ++ f ++ d ++ a ++ b).extractLsb' start len = (op ++ f).extractLsb' (start - 6) len := by
  rw [BitVec.extractLsb'_append_eq_of_le (by omega), BitVec.extractLsb'_append_eq_of_le (by omega),
    BitVec.extractLsb'_append_eq_of_le (by omega)]
  congr 1

@[simp] theorem fieldF_append : fieldF (op ++ f ++ d ++ a ++ b) = f :=
  (extractLsb'_append_registers op f d a b (by decide)).trans BitVec.extractLsb'_append_eq_right

@[simp] theorem fieldOp_append : fieldOp (op ++ f ++ d ++ a ++ b) = op :=
  (extractLsb'_append_registers op f d a b (by decide)).trans BitVec.extractLsb'_append_eq_left

theorem decode_of_fieldOp_eq_zero {w : Word} (j : Bool) (h : fieldOp w = 0b000#3) :
    decode j w = .ok (decodeR w) := by
  simp [decode, h]

end Sys2Proof

open Sys2Proof

/-- Settles O53: opcode `000` leaves the choice to funct3, and each field of the word is what was put there. -/
theorem everyRTypeWordIsLegal : Obligations.EveryRTypeWordIsLegal := by
  intro j f d a b
  rw [decode_of_fieldOp_eq_zero j (fieldOp_append _ f d a b)]
  simp only [decodeR, fieldF_append, fieldD_append, fieldS_append, fieldT_append]
  split
  case h_8 => simp [*]
  all_goals rfl

end

section
/-! PROOFS. The two-operand ALU instructions ADD, SUB, AND, OR, XOR (R101 to R105), all by the template of R100. -/

namespace Sys2Proof.Machine

/-- A register write followed by the advance of pc changes those two and nothing else. -/
theorem registerResult_setReg_advance (s : State) (rd : Reg) (v : Word) :
    RegisterResult s (s.setReg rd v).advance rd v (s.pc + 1#12) := by
  refine ⟨fun r => ?_, ?_, ⟨fun a => ?_, fun a => ?_⟩, ?_⟩
  · rw [State.reg_advance, State.reg_setReg]
  · rw [State.advance_pc, State.setReg_nextPc, State.nextPc]
  · rw [State.advance_dmem, State.setReg_dmem]
  · rw [State.advance_imem, State.setReg_imem]
  · rw [State.advance_config, State.setReg_config]

/-- The template of R100 goes on from every state, with its result in the destination. -/
theorem execR_registerResult (f : Word → Word → Word) (rd rs rt : Reg) (s : State) :
    ∃ t, execR f rd rs rt s = .next t ∧
      RegisterResult s t rd (f (s.reg rs) (s.reg rt)) (s.pc + 1#12) :=
  ⟨_, rfl, registerResult_setReg_advance s rd _⟩

/-- An operation that is `g` on every pair of bits makes `g` of the operands' bits the bits of the result. -/
theorem execR_bitwise {f : Word → Word → Word} {g : Bool → Bool → Bool}
    (hfg : ∀ a b i, (f a b).getLsbD i = g (a.getLsbD i) (b.getLsbD i)) (rd rs rt : Reg) (s : State) :
    ∃ t v, execR f rd rs rt s = .next t ∧
      (∀ i, i < 12 → v.getLsbD i = g ((s.reg rs).getLsbD i) ((s.reg rt).getLsbD i)) ∧
      RegisterResult s t rd v (s.pc + 1#12) := by
  obtain ⟨t, hgo, hresult⟩ := execR_registerResult f rd rs rt s
  exact ⟨t, _, hgo, fun i _ => hfg _ _ i, hresult⟩

/-! Which operation each instruction hands to the template. -/

variable (rd rs rt : Reg) (s : State)

theorem exec_add : exec (.add rd rs rt) s = execR (fun a b => a + b) rd rs rt s := rfl
theorem exec_sub : exec (.sub rd rs rt) s = execR (fun a b => a - b) rd rs rt s := rfl
theorem exec_and : exec (.and rd rs rt) s = execR (fun a b => a &&& b) rd rs rt s := rfl
theorem exec_or : exec (.or rd rs rt) s = execR (fun a b => a ||| b) rd rs rt s := rfl
theorem exec_xor : exec (.xor rd rs rt) s = execR (fun a b => a ^^^ b) rd rs rt s := rfl

/-- The difference as R102 writes it, the minuend first. -/
theorem sub_eq_ofNat_add (a b : Word) : a - b = BitVec.ofNat 12 (a.toNat + (4096 - b.toNat)) := by
  rw [BitVec.sub_def, Nat.add_comm]

end Sys2Proof.Machine

open Sys2Proof Sys2Proof.Machine

/-- Settles O5: the encoding is R69's row `000`, the sum the definition of addition modulo 4096. -/
theorem addInstruction : Obligations.AddInstruction := by
  refine ⟨fun j => everyRTypeWordIsLegal j 0b000#3, fun rd rs rt s => ?_⟩
  rw [exec_add, ← BitVec.add_def]
  exact execR_registerResult _ rd rs rt s

/-- Settles O6: R69's row `001`, and the difference in the form of R102. -/
theorem subInstruction : Obligations.SubInstruction := by
  refine ⟨fun j => everyRTypeWordIsLegal j 0b001#3, fun rd rs rt s => ?_⟩
  rw [exec_sub, ← sub_eq_ofNat_add]
  exact execR_registerResult _ rd rs rt s

/-- Settles O7: R69's row `010`, and the bits of a conjunction. -/
theorem andInstruction : Obligations.AndInstruction := by
  refine ⟨fun j => everyRTypeWordIsLegal j 0b010#3, fun rd rs rt s => ?_⟩
  rw [exec_and]
  exact execR_bitwise (fun _ _ _ => BitVec.getLsbD_and) rd rs rt s

/-- Settles O8: R69's row `011`, and the bits of a disjunction. -/
theorem orInstruction : Obligations.OrInstruction := by
  refine ⟨fun j => everyRTypeWordIsLegal j 0b011#3, fun rd rs rt s => ?_⟩
  rw [exec_or]
  exact execR_bitwise (fun _ _ _ => BitVec.getLsbD_or) rd rs rt s

/-- Settles O9: R69's row `100`; the exclusive or of two bits is set exactly when they differ. -/
theorem xorInstruction : Obligations.XorInstruction := by
  refine ⟨fun j => everyRTypeWordIsLegal j 0b100#3, fun rd rs rt s => ?_⟩
  rw [exec_xor]
  exact execR_bitwise (fun _ _ _ => BitVec.getLsbD_xor) rd rs rt s

end

section
/-! PROOFS. ADDI and SUBI (R121, R122): the I-type word with its reserved low bits, and the template of R120. -/

namespace Sys2Proof

/-- A word laid out by R63 gives its operands exactly when its reserved `rt` bits are `00` (R72). -/
theorem decodeI_append (mk : Reg → Reg → Imm3 → Instr) (op : BitVec 3) (k : Imm3) (d a b : BitVec 2) :
    decodeI mk (op ++ k ++ d ++ a ++ b) =
      if b = 0b00#2 then .ok (mk (Reg.ofBits d) (Reg.ofBits a) k) else .error .reservedRt := by
  rw [decodeI, fieldT_append, fieldD_append, fieldS_append, fieldF_append]

theorem decode_of_fieldOp_eq_one {w : Word} (j : Bool) (h : fieldOp w = 0b001#3) :
    decode j w = decodeI .addi w := by
  simp [decode, h]

theorem decode_of_fieldOp_eq_two {w : Word} (j : Bool) (h : fieldOp w = 0b010#3) :
    decode j w = decodeI .subi w := by
  simp [decode, h]

end Sys2Proof

namespace Sys2Proof.Machine

/-- The template of R120 goes on from every state, with its result in the destination. -/
theorem execI_registerResult (f : Word → Word → Word) (rd rs : Reg) (k : Imm3) (s : State) :
    ∃ t, execI f rd rs k s = .next t ∧
      RegisterResult s t rd (f (s.reg rs) (sext3 k)) (s.pc + 1#12) :=
  ⟨_, rfl, registerResult_setReg_advance s rd _⟩

theorem exec_addi (rd rs : Reg) (k : Imm3) (s : State) :
    exec (.addi rd rs k) s = execI (fun a c => a + c) rd rs k s := rfl

theorem exec_subi (rd rs : Reg) (k : Imm3) (s : State) :
    exec (.subi rd rs k) s = execI (fun a c => a - c) rd rs k s := rfl

theorem ofInt_toInt_eq_sext3 (k : Imm3) : BitVec.ofInt 12 k.toInt = sext3 k := rfl

/-- Adding the extended field modulo 4096 is adding its signed value. -/
theorem ofInt_toNat_add_toInt (x : Word) (k : Imm3) :
    BitVec.ofInt 12 (x.toNat + k.toInt) = x + sext3 k := by
  rw [BitVec.ofInt_add, BitVec.ofInt_natCast, BitVec.ofNat_toNat, BitVec.setWidth_eq, ofInt_toInt_eq_sext3]

/-- The field is extended first and then subtracted (R122), so a negative field adds. -/
theorem ofInt_toNat_sub_toInt (x : Word) (k : Imm3) :
    BitVec.ofInt 12 (x.toNat - k.toInt) = x - sext3 k := by
  rw [Int.sub_eq_add_neg, BitVec.ofInt_add, BitVec.ofInt_neg, BitVec.ofInt_natCast, BitVec.ofNat_toNat,
    BitVec.setWidth_eq, ofInt_toInt_eq_sext3, BitVec.sub_eq_add_neg]

end Sys2Proof.Machine

open Sys2Proof Sys2Proof.Machine

/-- Settles O13: opcode `001` with its low bits `00`, and the sum by the template of R120. -/
theorem addiInstruction : Obligations.AddiInstruction := by
  refine ⟨fun j k d a => ?_, fun rd rs k s => ?_⟩
  · rw [decode_of_fieldOp_eq_one j (fieldOp_append _ k d a _), decodeI_append, if_pos rfl]
  · rw [exec_addi, ofInt_toNat_add_toInt]
    exact execI_registerResult _ rd rs k s

/-- Settles O14: opcode `010` with its low bits `00`, and the difference by the template of R120. -/
theorem subiInstruction : Obligations.SubiInstruction := by
  refine ⟨fun j k d a => ?_, fun rd rs k s => ?_⟩
  · rw [decode_of_fieldOp_eq_two j (fieldOp_append _ k d a _), decodeI_append, if_pos rfl]
  · rw [exec_subi, ofInt_toNat_sub_toInt]
    exact execI_registerResult _ rd rs k s

end

section
/-! PROOFS. The word of a conditional branch, `opcode off3 cond pad rs rt` (R64), and what its fields decide (R70, R72). -/

namespace Sys2Proof

variable (op k : BitVec 3) (c p : BitVec 1) (a b : BitVec 2)

/-- The condition and the pad fill the place of `rd` (R61), so the laws of the five-field word apply. -/
theorem append_cond_pad :
    (op ++ k ++ c ++ p ++ a ++ b : Word) = op ++ k ++ (c ++ p) ++ a ++ b := by
  rw [show (op ++ k ++ c ++ p : BitVec 8) = op ++ k ++ (c ++ p) from BitVec.append_assoc]

@[simp] theorem fieldPad_append : fieldPad (op ++ k ++ c ++ p ++ a ++ b) = p := by
  calc fieldPad (op ++ k ++ c ++ p ++ a ++ b)
    _ = (op ++ k ++ c ++ p ++ a).extractLsb' 2 1 := BitVec.extractLsb'_append_eq_of_le (by decide)
    _ = (op ++ k ++ c ++ p).extractLsb' 0 1 := BitVec.extractLsb'_append_eq_of_le (by decide)
    _ = p := BitVec.extractLsb'_append_eq_right

@[simp] theorem fieldCond_append : fieldCond (op ++ k ++ c ++ p ++ a ++ b) = c := by
  calc fieldCond (op ++ k ++ c ++ p ++ a ++ b)
    _ = (op ++ k ++ c ++ p ++ a).extractLsb' 3 1 := BitVec.extractLsb'_append_eq_of_le (by decide)
    _ = (op ++ k ++ c ++ p).extractLsb' 1 1 := BitVec.extractLsb'_append_eq_of_le (by decide)
    _ = (op ++ k ++ c).extractLsb' 0 1 := BitVec.extractLsb'_append_eq_of_le (by decide)
    _ = c := BitVec.extractLsb'_append_eq_right

/-- The pad decides whether the word is a branch (R72), the condition bit which one (R70). -/
theorem decodeJ_append :
    decodeJ (op ++ k ++ c ++ p ++ a ++ b) =
      if p = 0b0#1 then
        if c = 0b0#1 then .ok (.beq (Reg.ofBits a) (Reg.ofBits b) k)
        else .ok (.bne (Reg.ofBits a) (Reg.ofBits b) k)
      else .error .reservedPad := by
  rw [decodeJ, fieldPad_append, fieldCond_append, append_cond_pad, fieldS_append, fieldT_append,
    fieldF_append]

theorem decode_of_fieldOp_eq_five {w : Word} (j : Bool) (h : fieldOp w = 0b101#3) :
    decode j w = decodeJ w := by
  simp [decode, h]

/-- Opcode `101` is a branch word on every machine, with or without JEXT. -/
theorem decode_append_branch (j : Bool) :
    decode j (0b101#3 ++ k ++ c ++ p ++ a ++ b) = decodeJ (0b101#3 ++ k ++ c ++ p ++ a ++ b) := by
  refine decode_of_fieldOp_eq_five j ?_
  rw [append_cond_pad, fieldOp_append]

end Sys2Proof
end

section
/-! PROOFS. BEQ and BNE (R140 to R144): a branch sets pc and nothing else, to the target or to the next instruction. -/

namespace Sys2Proof.Machine

/-- Setting pc changes nothing else. -/
theorem pcResult_setPc (s : State) (target : Word) : PcResult s (s.setPc target) target :=
  ⟨fun r => State.reg_setPc s r target, rfl, ⟨fun _ => rfl, fun _ => rfl⟩, rfl⟩

/-- Taken or not, a branch is one assignment to pc (R140 step 5). -/
theorem State.branch_eq_setPc (s : State) (taken : Bool) (k : Imm3) :
    s.branch taken k = s.setPc (if taken then s.branchTarget k else s.nextPc) := by
  cases taken <;> rfl

theorem State.regsEqual_iff {s : State} {rs rt : Reg} : s.regsEqual rs rt = true ↔ s.reg rs = s.reg rt :=
  beq_iff_eq

theorem exec_beq (rs rt : Reg) (k : Imm3) (s : State) :
    exec (.beq rs rt k) s =
      .next (s.setPc (if s.reg rs = s.reg rt then s.branchTarget k else s.nextPc)) := by
  rw [exec, execBeq, State.branch_eq_setPc]
  simp only [State.regsEqual_iff]

theorem exec_bne (rs rt : Reg) (k : Imm3) (s : State) :
    exec (.bne rs rt k) s =
      .next (s.setPc (if s.reg rs ≠ s.reg rt then s.branchTarget k else s.nextPc)) := by
  rw [exec, execBne, State.branch_eq_setPc]
  simp only [Bool.not_eq_true', ← Bool.not_eq_true, State.regsEqual_iff]

/-- The target counts from the instruction after the branch, modulo 4096 (R143). -/
theorem State.branchTarget_eq (s : State) (k : Imm3) : s.branchTarget k = s.pc + 1#12 + sext3 k := rfl

/-- The target in the rules' arithmetic, from the address of the branch itself (R141). -/
theorem ofInt_pc_add_one_add_toInt (s : State) (k : Imm3) :
    BitVec.ofInt 12 (s.pc.toNat + 1 + k.toInt) = s.branchTarget k := by
  rw [add_right_comm, BitVec.ofInt_add, ofInt_toNat_add_toInt, State.branchTarget_eq]
  exact add_right_comm _ _ _

/-- A taken BEQ or BNE ends at the target. -/
theorem pc_of_taken {rs rt : Reg} {k : Imm3} {s t : State}
    (h : (exec (.beq rs rt k) s = .next t ∧ s.reg rs = s.reg rt) ∨
      (exec (.bne rs rt k) s = .next t ∧ s.reg rs ≠ s.reg rt)) :
    t.pc = s.branchTarget k := by
  obtain ⟨hgo, heq⟩ | ⟨hgo, hne⟩ := h
  · rw [exec_beq, if_pos heq] at hgo
    cases hgo
    rfl
  · rw [exec_bne, if_pos hne] at hgo
    cases hgo
    rfl

/-- How far the target is from the branch does not depend on where the branch stands. -/
theorem State.branchTarget_sub_pc (s : State) (k : Imm3) : s.branchTarget k - s.pc = 1#12 + sext3 k := by
  rw [State.branchTarget_eq, BitVec.add_assoc, BitVec.add_comm, BitVec.add_sub_cancel]

end Sys2Proof.Machine

open Sys2Proof Sys2Proof.Machine

/-- Settles O21: condition bit 0 and pad 0 make the word a BEQ, and its one assignment is to pc. -/
theorem beqInstruction : Obligations.BeqInstruction := by
  refine ⟨fun j k a b => ?_, fun rs rt k s => ?_⟩
  · rw [decode_append_branch, decodeJ_append, if_pos rfl, if_pos rfl]
  · rw [ofInt_pc_add_one_add_toInt]
    exact ⟨_, exec_beq rs rt k s, pcResult_setPc s _⟩

/-- Settles O22: condition bit 1 and pad 0 make the word a BNE, and its one assignment is to pc. -/
theorem bneInstruction : Obligations.BneInstruction := by
  refine ⟨fun j k a b => ?_, fun rs rt k s => ?_⟩
  · rw [decode_append_branch, decodeJ_append, if_pos rfl, if_neg (by decide)]
  · rw [ofInt_pc_add_one_add_toInt]
    exact ⟨_, exec_bne rs rt k s, pcResult_setPc s _⟩

/-- Settles O23: the distance is `1 + sext_12(off3)`, and the table lists its eight values. -/
theorem branchTargetTable : Obligations.BranchTargetTable := by
  intro rs rt k s t htaken
  have hpc := pc_of_taken htaken
  refine ⟨hpc, ?_⟩
  rw [hpc, State.branchTarget_sub_pc]
  clear htaken hpc
  revert k
  decide

/-- Settles O24: a register equals itself, so the target is always chosen; the eight words by evaluation. -/
theorem unconditionalShortJump : Obligations.UnconditionalShortJump := by
  refine ⟨fun r k s => ⟨_, exec_beq r r k s, ?_⟩, by decide⟩
  rw [if_pos rfl]
  exact pcResult_setPc s _

end

section
/-! PROOFS. What an instruction that goes on leaves as it was (R22, R23, R41, R42, R208), and the invariant (R30, R31). -/

namespace Sys2Proof.Machine

theorem isStore_eq_false_of_destination {i : Instr} {rd : Reg} (h : destination i = some rd) :
    isStore i = false := by
  cases i with
  | str rt rs k => cases h
  | _ => rfl

/-- No instruction changes the program or a parameter of the machine (R41, R208). -/
theorem exec_keeps_imem_config {i : Instr} {s t : State} (h : exec i s = .next t) :
    t.imem = s.imem ∧ t.config = s.config := by
  obtain ⟨rd, v, -, rfl⟩ | ⟨rt, rs, k, -, -, rfl⟩ | ⟨-, -, p, rfl⟩ := exec_next_cases h
  · simp
  · simp
  · simp

/-- The data memory is as it was, or the instruction is STR and wrote the word at its effective address (R42). -/
theorem exec_next_dmem {i : Instr} {s t : State} (h : exec i s = .next t) :
    (isStore i = false ∧ t.dmem = s.dmem) ∨
    ∃ rt rs k, i = .str rt rs k ∧ (s.ea rs k).toNat < s.config.dmemWords ∧
      t.dmem = s.dmem.write (s.ea rs k).toNat (s.reg rt) := by
  obtain ⟨rd, v, hd, rfl⟩ | ⟨rt, rs, k, hi, hlt, rfl⟩ | ⟨-, hstore, p, rfl⟩ := exec_next_cases h
  · exact .inl ⟨isStore_eq_false_of_destination hd, by simp⟩
  · exact .inr ⟨rt, rs, k, hi, hlt, by simp⟩
  · exact .inl ⟨hstore, by simp⟩

theorem State.reg_setReg_of_ne (s : State) (v : Word) {q r : Reg} (h : q ≠ r) : (s.setReg r v).reg q = s.reg q := by
  rw [State.reg_setReg, if_neg h]
  cases q <;> rfl

/-- Every register but the destination is as it was (R23). -/
theorem exec_keeps_other_registers {i : Instr} {s t : State} (h : exec i s = .next t) {r : Reg}
    (hr : destination i ≠ some r) : t.reg r = s.reg r := by
  obtain ⟨rd, v, hd, rfl⟩ | ⟨rt, rs, k, -, -, rfl⟩ | ⟨-, -, p, rfl⟩ := exec_next_cases h
  · have hne : r ≠ rd := fun heq => hr (heq ▸ hd)
    rw [State.reg_advance, State.reg_setReg_of_ne s v hne]
  · simp
  · simp

/-- With program and parameters unchanged, the invariant is a claim about the data memory alone. -/
theorem State.Inv.of_dmem {s t : State} (hs : s.Inv) (himem : t.imem = s.imem) (hconfig : t.config = s.config)
    (hwf : t.dmem.wf) (hwithin : t.dmem.within s.config.dmemWords) : t.Inv := by
  obtain ⟨hsizes, himemWf, himemWithin, -, -⟩ := hs
  unfold State.Inv
  rw [himem, hconfig]
  exact ⟨hsizes, himemWf, himemWithin, hwf, hwithin⟩

theorem exec_keeps_inv {i : Instr} {s t : State} (hs : s.Inv) (h : exec i s = .next t) : t.Inv := by
  obtain ⟨himem, hconfig⟩ := exec_keeps_imem_config h
  have ⟨_, _, _, hwf, hwithin⟩ := hs
  obtain ⟨-, hdmem⟩ | ⟨rt, rs, k, -, hlt, hdmem⟩ := exec_next_dmem h
  · exact hs.of_dmem himem hconfig (hdmem ▸ hwf) (hdmem ▸ hwithin)
  · exact hs.of_dmem himem hconfig (hdmem ▸ Memory.wf_write hwf _ _) (hdmem ▸ Memory.within_write hwithin hlt _)

end Sys2Proof.Machine

open Sys2Proof Sys2Proof.Machine

/-- Settles O45: a step that goes on executes an instruction, and the one memory write keeps form and size. -/
theorem stepKeepsInvariant : Obligations.StepKeepsInvariant := by
  intro s t hs h
  obtain ⟨w, i, -, -, hexec⟩ := step_next_cases h
  exact exec_keeps_inv hs hexec

/-- Settles O44: what a launch places is canonical and fits where there is room for it. -/
theorem invariantAtLaunch : Obligations.InvariantAtLaunch :=
  fun _ _ _ _ program data p d hsizes hprogram hdata =>
    ⟨hsizes, Memory.wf_ofWords p program, Memory.within_ofWords hprogram, Memory.wf_ofWords d data,
      Memory.within_ofWords hdata⟩

/-- Settles O43: reset is the launch with nothing placed. -/
theorem invariantAtReset : Obligations.InvariantAtReset :=
  invariantAtLaunch Config.default _ _ _ [] [] 0 0 (by decide) (by decide) (by decide)

/-- Settles O41: a step that goes on executes an instruction, and none changes either. -/
theorem stepKeepsProgramAndParameters : Obligations.StepKeepsProgramAndParameters := by
  intro s t h
  obtain ⟨w, i, -, -, hexec⟩ := step_next_cases h
  exact exec_keeps_imem_config hexec

/-- Settles O39, from what an instruction that goes on can have done. -/
theorem onlyDestinationRegisterChanges : Obligations.OnlyDestinationRegisterChanges :=
  fun _ _ _ h _ hr => exec_keeps_other_registers h hr

end

section
/-! PROOFS. The opcode's choice of format (R60, R62 to R65, R75), the words of the formats, and the encoder (R76). -/

namespace Sys2Proof

theorem decode_of_fieldOp_eq_three {w : Word} (j : Bool) (h : fieldOp w = 0b011#3) :
    decode j w = decodeI .ld w := by
  simp [decode, h]

theorem decode_of_fieldOp_eq_four {w : Word} (j : Bool) (h : fieldOp w = 0b100#3) :
    decode j w = decodeStr w := by
  simp [decode, h]

theorem decode_of_fieldOp_eq_six {w : Word} (j : Bool) (h : fieldOp w = 0b110#3) :
    decode j w = .error .opcode110 := by
  simp [decode, h]

theorem decode_of_fieldOp_eq_seven {w : Word} (j : Bool) (h : fieldOp w = 0b111#3) :
    decode j w = if j then .ok (.jext (fieldOff9 w)) else .error .opcode111 := by
  simp [decode, h]

/-- A STR word gives its operands exactly when its reserved `rd` bits are `00` (R72). -/
theorem decodeStr_append (op : BitVec 3) (k : Imm3) (d a b : BitVec 2) :
    decodeStr (op ++ k ++ d ++ a ++ b) =
      if d = 0b00#2 then .ok (.str (Reg.ofBits b) (Reg.ofBits a) k) else .error .reservedRd := by
  rw [decodeStr, fieldT_append, fieldD_append, fieldS_append, fieldF_append]

theorem decode_append_ld (j : Bool) (k : Imm3) (d a b : BitVec 2) :
    decode j (0b011#3 ++ k ++ d ++ a ++ b) =
      if b = 0b00#2 then .ok (.ld (Reg.ofBits d) (Reg.ofBits a) k) else .error .reservedRt := by
  rw [decode_of_fieldOp_eq_three j (fieldOp_append _ k d a b), decodeI_append]

theorem decode_append_str (j : Bool) (k : Imm3) (d a b : BitVec 2) :
    decode j (0b100#3 ++ k ++ d ++ a ++ b) =
      if d = 0b00#2 then .ok (.str (Reg.ofBits b) (Reg.ofBits a) k) else .error .reservedRd := by
  rw [decode_of_fieldOp_eq_four j (fieldOp_append _ k d a b), decodeStr_append]

theorem fieldOp_encX (k : Off9) : fieldOp (encX k) = 0b111#3 := BitVec.extractLsb'_append_eq_left

theorem fieldOff9_encX (k : Off9) : fieldOff9 (encX k) = k := BitVec.extractLsb'_append_eq_right

/-- Opcode `111` is JEXT or nothing, as the machine has it (R65, R73). -/
theorem decode_encX (j : Bool) (k : Off9) :
    decode j (encX k) = if j then .ok (.jext k) else .error .opcode111 := by
  rw [decode_of_fieldOp_eq_seven j (fieldOp_encX k), fieldOff9_encX]

/-- funct3 chooses the instruction of an R-type word, with the word's register operands (R62, R69). -/
theorem decode_encR (j : Bool) (f : BitVec 3) (rd rs rt : Reg) :
    decode j (encR f rd rs rt) =
      match f with
      | 0b000#3 => .ok (.add rd rs rt)
      | 0b001#3 => .ok (.sub rd rs rt)
      | 0b010#3 => .ok (.and rd rs rt)
      | 0b011#3 => .ok (.or rd rs rt)
      | 0b100#3 => .ok (.xor rd rs rt)
      | 0b101#3 => .ok (.shl rd rs rt)
      | 0b110#3 => .ok (.shr rd rs rt)
      | _ => .ok .nop := by
  have h := everyRTypeWordIsLegal j f rd.bits rs.bits rt.bits
  simp only [Reg.ofBits_bits] at h
  exact h

end Sys2Proof

open Sys2Proof Sys2Proof.Machine

/-- Settles O49: each format's fields are read back as they were put, and the reserved ones are put as `00`. -/
theorem decodeOfEncode : Obligations.DecodeOfEncode := by
  intro c i hwf
  cases i with
  | add rd rs rt => exact decode_encR _ 0b000#3 rd rs rt
  | sub rd rs rt => exact decode_encR _ 0b001#3 rd rs rt
  | and rd rs rt => exact decode_encR _ 0b010#3 rd rs rt
  | or rd rs rt => exact decode_encR _ 0b011#3 rd rs rt
  | xor rd rs rt => exact decode_encR _ 0b100#3 rd rs rt
  | shl rd rs rt => exact decode_encR _ 0b101#3 rd rs rt
  | shr rd rs rt => exact decode_encR _ 0b110#3 rd rs rt
  | nop => exact decode_encR _ 0b111#3 .r0 .r0 .r0
  | addi rd rs k =>
    refine (addiInstruction.1 _ k rd.bits rs.bits).trans ?_
    rw [Reg.ofBits_bits, Reg.ofBits_bits]
  | subi rd rs k =>
    refine (subiInstruction.1 _ k rd.bits rs.bits).trans ?_
    rw [Reg.ofBits_bits, Reg.ofBits_bits]
  | ld rd rs k =>
    refine (decode_append_ld _ k rd.bits rs.bits _).trans ?_
    rw [Reg.ofBits_bits, Reg.ofBits_bits]
    exact if_pos rfl
  | str rt rs k =>
    refine (decode_append_str _ k _ rs.bits rt.bits).trans ?_
    rw [Reg.ofBits_bits, Reg.ofBits_bits]
    exact if_pos rfl
  | beq rs rt k =>
    refine (beqInstruction.1 _ k rs.bits rt.bits).trans ?_
    rw [Reg.ofBits_bits, Reg.ofBits_bits]
  | bne rs rt k =>
    refine (bneInstruction.1 _ k rs.bits rt.bits).trans ?_
    rw [Reg.ofBits_bits, Reg.ofBits_bits]
  | jext k => exact (decode_encX _ k).trans (if_pos hwf)

end

section
/-! PROOFS. Every word is its fields, so a legal word is its instruction's word again, but for NOP (R61, R76). -/

namespace Sys2Proof

/-- A word is its five fields put together (R61). -/
theorem append_fields (w : Word) : fieldOp w ++ fieldF w ++ fieldD w ++ fieldS w ++ fieldT w = w := by
  have hf : fieldOp w ++ fieldF w = w.extractLsb' 6 6 := BitVec.extractLsb'_append_extractLsb'_eq_extractLsb' rfl
  have hd : w.extractLsb' 6 6 ++ fieldD w = w.extractLsb' 4 8 :=
    BitVec.extractLsb'_append_extractLsb'_eq_extractLsb' rfl
  have hs : w.extractLsb' 4 8 ++ fieldS w = w.extractLsb' 2 10 :=
    BitVec.extractLsb'_append_extractLsb'_eq_extractLsb' rfl
  have ht : w.extractLsb' 2 10 ++ fieldT w = w.extractLsb' 0 12 :=
    BitVec.extractLsb'_append_extractLsb'_eq_extractLsb' rfl
  rw [hf, hd, hs, ht, BitVec.extractLsb'_eq_self]

theorem fieldCond_append_fieldPad (w : Word) : fieldCond w ++ fieldPad w = fieldD w :=
  BitVec.extractLsb'_append_extractLsb'_eq_extractLsb' rfl

/-- In the long format the four low fields are one (R65). -/
theorem fieldOp_append_fieldOff9 (w : Word) : fieldOp w ++ fieldOff9 w = w :=
  (BitVec.extractLsb'_append_extractLsb'_eq_extractLsb' rfl).trans BitVec.extractLsb'_eq_self

theorem encI_of_fields {w : Word} {op f : BitVec 3} {rd rs rt : Reg} (hop : fieldOp w = op) (hf : fieldF w = f)
    (hd : fieldD w = rd.bits) (hs : fieldS w = rs.bits) (ht : fieldT w = rt.bits) :
    encI op f rd rs rt = w := by
  rw [encI, ← hop, ← hf, ← hd, ← hs, ← ht]
  exact append_fields w

/-- The short J-type layout is the I-type one with condition and pad in the place of `rd` (R61). -/
theorem encJ_of_fields {w : Word} {c : BitVec 1} {k : Imm3} {rs rt : Reg} (hop : fieldOp w = 0b101#3)
    (hcond : fieldCond w = c) (hpad : fieldPad w = 0b0#1) (hf : fieldF w = k) (hs : fieldS w = rs.bits)
    (ht : fieldT w = rt.bits) : encJ c k rs rt = w := by
  rw [encJ, append_cond_pad, ← hcond, ← hpad, fieldCond_append_fieldPad, ← hop, ← hf, ← hs, ← ht]
  exact append_fields w

theorem threeBits_cases : ∀ f : BitVec 3,
    f = 0b000#3 ∨ f = 0b001#3 ∨ f = 0b010#3 ∨ f = 0b011#3 ∨ f = 0b100#3 ∨ f = 0b101#3 ∨ f = 0b110#3 ∨ f = 0b111#3 := by
  decide

theorem decodeR_eq_nop {w : Word} : decodeR w = .nop ↔ fieldF w = 0b111#3 := by
  rcases threeBits_cases (fieldF w) with h | h | h | h | h | h | h | h <;> simp [decodeR, h]

theorem encode_decodeR {w : Word} (hop : fieldOp w = 0b000#3) (hf : fieldF w ≠ 0b111#3) :
    encode (decodeR w) = w := by
  have henc : ∀ f, fieldF w = f →
      encR f (Reg.ofBits (fieldD w)) (Reg.ofBits (fieldS w)) (Reg.ofBits (fieldT w)) = w := fun f h =>
    encI_of_fields hop h (Reg.bits_ofBits _).symm (Reg.bits_ofBits _).symm (Reg.bits_ofBits _).symm
  rcases threeBits_cases (fieldF w) with h | h | h | h | h | h | h | h
  case inr.inr.inr.inr.inr.inr.inr => exact absurd h hf
  all_goals
    rw [decodeR, h]
    exact henc _ h

theorem decodeI_eq_ok {mk : Reg → Reg → Imm3 → Instr} {w : Word} {i : Instr} :
    decodeI mk w = .ok i ↔
      fieldT w = 0b00#2 ∧ mk (Reg.ofBits (fieldD w)) (Reg.ofBits (fieldS w)) (fieldF w) = i := by
  unfold decodeI
  split <;> simp [*]

theorem decodeStr_eq_ok {w : Word} {i : Instr} :
    decodeStr w = .ok i ↔
      fieldD w = 0b00#2 ∧ .str (Reg.ofBits (fieldT w)) (Reg.ofBits (fieldS w)) (fieldF w) = i := by
  unfold decodeStr
  split <;> simp [*]

theorem decodeJ_eq_ok {w : Word} {i : Instr} :
    decodeJ w = .ok i ↔
      fieldPad w = 0b0#1 ∧
      ((fieldCond w = 0b0#1 ∧ .beq (Reg.ofBits (fieldS w)) (Reg.ofBits (fieldT w)) (fieldF w) = i) ∨
       (fieldCond w = 0b1#1 ∧ .bne (Reg.ofBits (fieldS w)) (Reg.ofBits (fieldT w)) (fieldF w) = i)) := by
  have hcond : ∀ c : BitVec 1, c = 0b1#1 ↔ ¬ c = 0b0#1 := by decide
  unfold decodeJ
  rw [hcond]
  split
  · split <;> simp [*]
  · simp [*]

/-- Everything a word that decodes can be: one of the formats, with its opcode (R60, R62 to R65). -/
theorem decode_ok_cases {j : Bool} {w : Word} {i : Instr} (h : decode j w = .ok i) :
    (fieldOp w = 0b000#3 ∧ decodeR w = i) ∨
    (fieldOp w = 0b001#3 ∧ decodeI .addi w = .ok i) ∨
    (fieldOp w = 0b010#3 ∧ decodeI .subi w = .ok i) ∨
    (fieldOp w = 0b011#3 ∧ decodeI .ld w = .ok i) ∨
    (fieldOp w = 0b100#3 ∧ decodeStr w = .ok i) ∨
    (fieldOp w = 0b101#3 ∧ decodeJ w = .ok i) ∨
    (fieldOp w = 0b111#3 ∧ j = true ∧ .jext (fieldOff9 w) = i) := by
  rcases threeBits_cases (fieldOp w) with hop | hop | hop | hop | hop | hop | hop | hop
  · rw [decode_of_fieldOp_eq_zero j hop] at h
    simpa [hop] using h
  · rw [decode_of_fieldOp_eq_one j hop] at h
    simp [hop, h]
  · rw [decode_of_fieldOp_eq_two j hop] at h
    simp [hop, h]
  · rw [decode_of_fieldOp_eq_three j hop] at h
    simp [hop, h]
  · rw [decode_of_fieldOp_eq_four j hop] at h
    simp [hop, h]
  · rw [decode_of_fieldOp_eq_five j hop] at h
    simp [hop, h]
  · rw [decode_of_fieldOp_eq_six j hop] at h
    cases h
  · rw [decode_of_fieldOp_eq_seven j hop] at h
    cases j with
    | false => cases h
    | true => simpa [hop] using h

theorem encode_of_decodeI {mk : Reg → Reg → Imm3 → Instr} {op : BitVec 3} {w : Word} {i : Instr}
    (hop : fieldOp w = op) (h : decodeI mk w = .ok i) (hmk : ∀ rd rs k, encode (mk rd rs k) = encI op k rd rs .r0)
    (hne : ∀ rd rs k, mk rd rs k ≠ .nop) : i ≠ .nop ∧ encode i = w := by
  obtain ⟨ht, rfl⟩ := decodeI_eq_ok.mp h
  refine ⟨hne _ _ _, ?_⟩
  rw [hmk]
  exact encI_of_fields hop rfl (Reg.bits_ofBits _).symm (Reg.bits_ofBits _).symm ht

/-- A word that decodes is its instruction's word again, but for NOP, whose words are those of funct3 `111` (D7). -/
theorem encode_of_decode {j : Bool} {w : Word} {i : Instr} (h : decode j w = .ok i) :
    (i = .nop ∧ fieldOp w = 0b000#3 ∧ fieldF w = 0b111#3) ∨ (i ≠ .nop ∧ encode i = w) := by
  obtain ⟨hop, rfl⟩ | ⟨hop, h⟩ | ⟨hop, h⟩ | ⟨hop, h⟩ | ⟨hop, h⟩ | ⟨hop, h⟩ | ⟨hop, -, rfl⟩ := decode_ok_cases h
  · by_cases hf : fieldF w = 0b111#3
    · exact .inl ⟨decodeR_eq_nop.mpr hf, hop, hf⟩
    · exact .inr ⟨mt decodeR_eq_nop.mp hf, encode_decodeR hop hf⟩
  · exact .inr (encode_of_decodeI hop h (fun _ _ _ => rfl) fun _ _ _ => Instr.noConfusion)
  · exact .inr (encode_of_decodeI hop h (fun _ _ _ => rfl) fun _ _ _ => Instr.noConfusion)
  · exact .inr (encode_of_decodeI hop h (fun _ _ _ => rfl) fun _ _ _ => Instr.noConfusion)
  · obtain ⟨hd, rfl⟩ := decodeStr_eq_ok.mp h
    exact .inr ⟨Instr.noConfusion, encI_of_fields hop rfl hd (Reg.bits_ofBits _).symm (Reg.bits_ofBits _).symm⟩
  · obtain ⟨hpad, ⟨hcond, rfl⟩ | ⟨hcond, rfl⟩⟩ := decodeJ_eq_ok.mp h
    all_goals exact .inr ⟨Instr.noConfusion,
      encJ_of_fields hop hcond hpad rfl (Reg.bits_ofBits _).symm (Reg.bits_ofBits _).symm⟩
  · refine .inr ⟨Instr.noConfusion, ?_⟩
    rw [encode, encX, ← hop]
    exact fieldOp_append_fieldOff9 w

/-- The 64 words of opcode `000` and funct3 `111`, as numbers and as a row of the opcode table. -/
theorem nop_words {w : Word} (hop : fieldOp w = 0b000#3) (hf : fieldF w = 0b111#3) :
    0x1C0#12 ≤ w ∧ w ≤ 0x1FF#12 ∧ w &&& 0xFC0#12 = 0x1C0#12 := by
  have hall : ∀ d a b : BitVec 2, 0x1C0#12 ≤ 0b000#3 ++ 0b111#3 ++ d ++ a ++ b ∧
      0b000#3 ++ 0b111#3 ++ d ++ a ++ b ≤ 0x1FF#12 ∧
      (0b000#3 ++ 0b111#3 ++ d ++ a ++ b) &&& 0xFC0#12 = 0x1C0#12 := by decide
  rw [← append_fields w, hop, hf]
  exact hall _ _ _

end Sys2Proof

open Sys2Proof Sys2Proof.Machine

/-- Settles O50, by the format of the word; NOP's words are those of funct3 `111`. -/
theorem encodeOfDecode : Obligations.EncodeOfDecode := by
  intro j w i h
  obtain ⟨rfl, hop, hf⟩ | ⟨hne, henc⟩ := encode_of_decode h
  · obtain ⟨hlow, hhigh, -⟩ := nop_words hop hf
    exact ⟨fun hne => absurd rfl hne, fun _ => ⟨rfl, hlow, hhigh⟩⟩
  · exact ⟨fun _ => henc, fun heq => absurd heq hne⟩

end

section
/-! PROOFS. The match and mask columns of spec/opcode_table.json against the decoder. -/

namespace Sys2Proof

theorem encode_and_tableMask (i : Instr) : encode i &&& i.tableMask = i.tableMatch := by
  cases i with
  | add rd rs rt => exact Laws.TableRow.add rd rs rt
  | sub rd rs rt => exact Laws.TableRow.sub rd rs rt
  | and rd rs rt => exact Laws.TableRow.and rd rs rt
  | or rd rs rt => exact Laws.TableRow.or rd rs rt
  | xor rd rs rt => exact Laws.TableRow.xor rd rs rt
  | shl rd rs rt => exact Laws.TableRow.shl rd rs rt
  | shr rd rs rt => exact Laws.TableRow.shr rd rs rt
  | nop => exact Laws.TableRow.nop
  | addi rd rs k => exact Laws.TableRow.addi rd rs k
  | subi rd rs k => exact Laws.TableRow.subi rd rs k
  | ld rd rs k => exact Laws.TableRow.ld rd rs k
  | str rt rs k => exact Laws.TableRow.str rt rs k
  | beq rs rt k => exact Laws.TableRow.beq rs rt k
  | bne rs rt k => exact Laws.TableRow.bne rs rt k
  | jext k => exact Laws.TableRow.jext k

/-- A field the mask keeps whole is the match value's. -/
theorem extractLsb'_of_masked {w m v : Word} (start len : Nat) (h : w &&& m = v)
    (hm : m.extractLsb' start len = BitVec.allOnes len) : w.extractLsb' start len = v.extractLsb' start len := by
  rw [← h, BitVec.extractLsb'_and, hm, BitVec.and_allOnes]

theorem tableMask_decodeR (w : Word) : (decodeR w).tableMask = 0xFC0#12 := by
  rcases threeBits_cases (fieldF w) with h | h | h | h | h | h | h | h <;> simp [decodeR, h, Instr.tableMask]

theorem tableMatch_decodeR (w : Word) : (decodeR w).tableMatch = 0b000#3 ++ fieldF w ++ 0#6 := by
  rcases threeBits_cases (fieldF w) with h | h | h | h | h | h | h | h <;> simp [decodeR, h, Instr.tableMatch]

end Sys2Proof

open Sys2Proof Sys2Proof.Machine

/-- Settles O52: a decoded word is an encoded one; a row's mask fixes the opcode and the bits its format tests. -/
theorem decoderAgreesWithOpcodeTable : Obligations.DecoderAgreesWithOpcodeTable := by
  refine ⟨fun w i h => ?_, fun w i h => ?_⟩
  · obtain ⟨rfl, hop, hf⟩ | ⟨-, rfl⟩ := encode_of_decode h
    · exact (nop_words hop hf).2.2
    · exact encode_and_tableMask i
  · cases i <;> dsimp only [Instr.tableMask, Instr.tableMatch] at h ⊢
    case add | sub | and | or | xor | shl | shr | nop =>
      have hop : fieldOp w = 0b000#3 := extractLsb'_of_masked 9 3 h rfl
      have hf : fieldF w = fieldF _ := extractLsb'_of_masked 6 3 h rfl
      exact ⟨_, decode_of_fieldOp_eq_zero true hop, (tableMatch_decodeR w).trans (by rw [hf]; rfl), tableMask_decodeR w⟩
    case addi =>
      have hop : fieldOp w = 0b001#3 := extractLsb'_of_masked 9 3 h rfl
      have ht : fieldT w = 0b00#2 := extractLsb'_of_masked 0 2 h rfl
      exact ⟨_, (decode_of_fieldOp_eq_one true hop).trans (decodeI_eq_ok.mpr ⟨ht, rfl⟩), rfl, rfl⟩
    case subi =>
      have hop : fieldOp w = 0b010#3 := extractLsb'_of_masked 9 3 h rfl
      have ht : fieldT w = 0b00#2 := extractLsb'_of_masked 0 2 h rfl
      exact ⟨_, (decode_of_fieldOp_eq_two true hop).trans (decodeI_eq_ok.mpr ⟨ht, rfl⟩), rfl, rfl⟩
    case ld =>
      have hop : fieldOp w = 0b011#3 := extractLsb'_of_masked 9 3 h rfl
      have ht : fieldT w = 0b00#2 := extractLsb'_of_masked 0 2 h rfl
      exact ⟨_, (decode_of_fieldOp_eq_three true hop).trans (decodeI_eq_ok.mpr ⟨ht, rfl⟩), rfl, rfl⟩
    case str =>
      have hop : fieldOp w = 0b100#3 := extractLsb'_of_masked 9 3 h rfl
      have hd : fieldD w = 0b00#2 := extractLsb'_of_masked 4 2 h rfl
      exact ⟨_, (decode_of_fieldOp_eq_four true hop).trans (decodeStr_eq_ok.mpr ⟨hd, rfl⟩), rfl, rfl⟩
    case beq =>
      have hop : fieldOp w = 0b101#3 := extractLsb'_of_masked 9 3 h rfl
      have hpad : fieldPad w = 0b0#1 := extractLsb'_of_masked 4 1 h rfl
      have hcond : fieldCond w = 0b0#1 := extractLsb'_of_masked 5 1 h rfl
      exact ⟨_, (decode_of_fieldOp_eq_five true hop).trans (decodeJ_eq_ok.mpr ⟨hpad, .inl ⟨hcond, rfl⟩⟩), rfl, rfl⟩
    case bne =>
      have hop : fieldOp w = 0b101#3 := extractLsb'_of_masked 9 3 h rfl
      have hpad : fieldPad w = 0b0#1 := extractLsb'_of_masked 4 1 h rfl
      have hcond : fieldCond w = 0b1#1 := extractLsb'_of_masked 5 1 h rfl
      exact ⟨_, (decode_of_fieldOp_eq_five true hop).trans (decodeJ_eq_ok.mpr ⟨hpad, .inr ⟨hcond, rfl⟩⟩), rfl, rfl⟩
    case jext =>
      have hop : fieldOp w = 0b111#3 := extractLsb'_of_masked 9 3 h rfl
      exact ⟨_, (decode_of_fieldOp_eq_seven true hop).trans (if_pos rfl), rfl, rfl⟩

end

section
/-! PROOFS. The illegal words and their names (R72, R73), and how many words are legal (R75). -/

namespace Sys2Proof

theorem decodeI_eq_error {mk : Reg → Reg → Imm3 → Instr} {w : Word} {e : Illegal} :
    decodeI mk w = .error e ↔ fieldT w ≠ 0b00#2 ∧ .reservedRt = e := by
  unfold decodeI
  split <;> simp [*]

theorem decodeStr_eq_error {w : Word} {e : Illegal} :
    decodeStr w = .error e ↔ fieldD w ≠ 0b00#2 ∧ .reservedRd = e := by
  unfold decodeStr
  split <;> simp [*]

theorem decodeJ_eq_error {w : Word} {e : Illegal} :
    decodeJ w = .error e ↔ fieldPad w = 0b1#1 ∧ .reservedPad = e := by
  have hpad : ∀ p : BitVec 1, p = 0b1#1 ↔ ¬ p = 0b0#1 := by decide
  unfold decodeJ
  rw [hpad]
  split
  · split <;> simp [*]
  · simp [*]

/-- The opcode decides by which name a word can be illegal. -/
theorem decode_eq_error {j : Bool} {w : Word} {e : Illegal} :
    decode j w = .error e ↔
      ((fieldOp w = 0b001#3 ∨ fieldOp w = 0b010#3 ∨ fieldOp w = 0b011#3) ∧ fieldT w ≠ 0b00#2 ∧ .reservedRt = e) ∨
      (fieldOp w = 0b100#3 ∧ fieldD w ≠ 0b00#2 ∧ .reservedRd = e) ∨
      (fieldOp w = 0b101#3 ∧ fieldPad w = 0b1#1 ∧ .reservedPad = e) ∨
      (fieldOp w = 0b110#3 ∧ .opcode110 = e) ∨
      (fieldOp w = 0b111#3 ∧ j = false ∧ .opcode111 = e) := by
  rcases threeBits_cases (fieldOp w) with hop | hop | hop | hop | hop | hop | hop | hop
  · simp [decode_of_fieldOp_eq_zero j hop, hop]
  · simp [decode_of_fieldOp_eq_one j hop, hop, decodeI_eq_error]
  · simp [decode_of_fieldOp_eq_two j hop, hop, decodeI_eq_error]
  · simp [decode_of_fieldOp_eq_three j hop, hop, decodeI_eq_error]
  · simp [decode_of_fieldOp_eq_four j hop, hop, decodeStr_eq_error]
  · simp [decode_of_fieldOp_eq_five j hop, hop, decodeJ_eq_error]
  · simp [decode_of_fieldOp_eq_six j hop, hop]
  · cases j <;> simp [decode_of_fieldOp_eq_seven _ hop, hop]

theorem decode_isOk {j : Bool} {w : Word} : (decode j w).isOk = true ↔ ∀ e, decode j w ≠ .error e := by
  cases decode j w with
  | ok i => simp [Except.isOk, Except.toBool]
  | error e => simp [Except.isOk, Except.toBool]

/-- Neither funct3 (or imm3, off3) nor `rs` decides whether a word is legal. -/
theorem decode_isOk_congr {j : Bool} {w u : Word} (hop : fieldOp w = fieldOp u) (hd : fieldD w = fieldD u)
    (ht : fieldT w = fieldT u) : (decode j w).isOk = (decode j u).isOk := by
  have hpad : fieldPad w = fieldPad u := by
    have hlow : ∀ v : Word, fieldPad v = (fieldD v).extractLsb' 0 1 := fun v => by
      rw [← fieldCond_append_fieldPad]
      exact BitVec.extractLsb'_append_eq_right.symm
    rw [hlow, hlow, hd]
  rw [Bool.eq_iff_iff, decode_isOk, decode_isOk]
  simp only [Ne, decode_eq_error, hop, hd, ht, hpad]

/-- Counting below `m * n` block by block. -/
theorem countP_range_mul (p : Nat → Bool) (m n : Nat) :
    (List.range (m * n)).countP p = ((List.range m).map fun i => (List.range n).countP fun k => p (i * n + k)).sum := by
  induction m with
  | zero => simp
  | succ m ih =>
    rw [Nat.succ_mul, List.range_add, List.countP_append, ih, List.range_succ, List.map_append, List.sum_append,
      List.countP_map]
    simp [Function.comp_def]

/-- Blocks that all count the same. -/
theorem countP_range_mul_const {p q : Nat → Bool} {m n : Nat} (h : ∀ i < m, ∀ k < n, p (i * n + k) = q k) :
    (List.range (m * n)).countP p = m * (List.range n).countP q := by
  have hblock : ∀ i ∈ List.range m, ((List.range n).countP fun k => p (i * n + k)) = (List.range n).countP q :=
    fun i hi => List.countP_congr fun k hk => by rw [h i (List.mem_range.mp hi) k (List.mem_range.mp hk)]
  rw [countP_range_mul, List.map_congr_left hblock, List.map_const', List.sum_replicate, List.length_range, smul_eq_mul]

/-- Whether the word with a given number is legal. -/
def legalNumber (j : Bool) (n : Nat) : Bool := (decode j (BitVec.ofNat 12 n)).isOk

/-- Numbers with the same opcode, the same bits [5:4] and the same bits [1:0] are legal alike. -/
theorem legalNumber_congr {j : Bool} {n l : Nat} (hop : n / 512 % 8 = l / 512 % 8) (hd : n / 16 % 4 = l / 16 % 4)
    (ht : n % 4 = l % 4) : legalNumber j n = legalNumber j l := by
  apply decode_isOk_congr
  all_goals
    apply BitVec.eq_of_toNat_eq
    simp only [fieldOp, fieldD, fieldT, BitVec.extractLsb'_toNat, BitVec.toNat_ofNat, Nat.shiftRight_eq_div_pow]
    omega

/-- Among the 512 words of an opcode, only bits [5:4] and [1:0] tell which are legal. -/
theorem countP_legalNumber_opcode (j : Bool) (op : Nat) :
    ((List.range 512).countP fun k => legalNumber j (op * 512 + k)) =
      8 * ((List.range 4).map fun d => 4 * (List.range 4).countP fun t => legalNumber j (op * 512 + d * 16 + t)).sum := by
  have hf : ∀ f < 8, ∀ k < 64, legalNumber j (op * 512 + (f * 64 + k)) = legalNumber j (op * 512 + k) :=
    fun f _ k _ => legalNumber_congr (by omega) (by omega) (by omega)
  have hs : ∀ d : Nat, ((List.range 16).countP fun k => legalNumber j (op * 512 + (d * 16 + k))) =
      4 * (List.range 4).countP fun t => legalNumber j (op * 512 + d * 16 + t) := fun d =>
    countP_range_mul_const (m := 4) (n := 4) fun a _ t _ => legalNumber_congr (by omega) (by omega) (by omega)
  rw [countP_range_mul_const (m := 8) (n := 64) hf, countP_range_mul _ 4 16]
  simp only [hs]

end Sys2Proof

open Sys2Proof Sys2Proof.Machine

/-- Settles O54: each name belongs to its own opcodes and the bits they reserve. -/
theorem illegalWordsByName : Obligations.IllegalWordsByName := by
  intro j w
  simp only [decode_eq_error]
  simp [fieldOp, fieldD, fieldT, fieldPad]

/-- Settles O55: the count is a sum over the opcodes and the values of bits [5:4] and [1:0]. -/
theorem legalWordCount : Obligations.LegalWordCount := by
  have hlegal : (List.range 4096).countP (legalNumber false) = 1280 := by
    rw [countP_range_mul _ 8 512]
    simp only [countP_legalNumber_opcode]
    decide
  refine ⟨hlegal, ?_⟩
  change ((List.range 4096).countP fun n => !legalNumber false n) = 2816
  have htotal := (List.range 4096).length_eq_countP_add_countP (legalNumber false)
  rw [hlegal, List.length_range] at htotal
  simp only [Bool.not_eq_true, Bool.decide_eq_false] at htotal
  omega

/-- Settles O56, by evaluation of the decoder. -/
theorem sourceExampleWords : Obligations.SourceExampleWords := ⟨rfl, rfl, rfl, rfl, rfl, rfl, rfl⟩

end

section
/-! PROOFS. The words as numbers: the place value of each field (R76). -/

namespace Sys2Proof

/-- The upper part of a word weighs `2 ^ n` over an `n`-bit lower part. -/
theorem toNat_append_eq_add {m n : Nat} (x : BitVec m) (y : BitVec n) :
    (x ++ y).toNat = x.toNat * 2 ^ n + y.toNat := by
  rw [BitVec.toNat_append, ← Nat.shiftLeft_add_eq_or_of_lt y.isLt, Nat.shiftLeft_eq]

theorem toNat_encI (op : BitVec 3) (k : Imm3) (rd rs rt : Reg) :
    (encI op k rd rs rt).toNat =
      op.toNat * 512 + k.toNat * 64 + rd.bits.toNat * 16 + rs.bits.toNat * 4 + rt.bits.toNat := by
  unfold encI
  simp only [toNat_append_eq_add]
  omega

theorem toNat_encR (f : BitVec 3) (rd rs rt : Reg) :
    (encR f rd rs rt).toNat = f.toNat * 64 + rd.bits.toNat * 16 + rs.bits.toNat * 4 + rt.bits.toNat := by
  rw [← Nat.zero_add (f.toNat * 64)]
  exact toNat_encI 0b000#3 f rd rs rt

theorem toNat_encJ (c : BitVec 1) (k : Imm3) (rs rt : Reg) :
    (encJ c k rs rt).toNat = 2560 + k.toNat * 64 + c.toNat * 32 + rs.bits.toNat * 4 + rt.bits.toNat := by
  unfold encJ
  simp only [toNat_append_eq_add, BitVec.toNat_ofNat]
  omega

theorem toNat_encX (k : Off9) : (encX k).toNat = 3584 + k.toNat :=
  toNat_append_eq_add 0b111#3 k

/-- A signed field modulo its range is the field as an unsigned number. -/
theorem toInt_emod_two_pow {n : Nat} (k : BitVec n) : (k.toInt % 2 ^ n).toNat = k.toNat := by
  have h := BitVec.toNat_ofInt (n := n) k.toInt
  rw [BitVec.ofInt_toInt] at h
  simpa using h.symm

theorem imm3_toInt_emod (k : Imm3) : (k.toInt % 8).toNat = k.toNat := toInt_emod_two_pow k

theorem off9_toInt_emod (k : Off9) : (k.toInt % 512).toNat = k.toNat := toInt_emod_two_pow k

end Sys2Proof

open Sys2Proof Sys2Proof.Machine

/-- Settles O51: each row is its format's sum, the signed fields taken modulo their range. -/
theorem encodingArithmetic : Obligations.EncodingArithmetic := by
  intro i
  simp only [imm3_toInt_emod, off9_toInt_emod]
  cases i with
  | add rd rs rt => exact toNat_encR 0b000#3 rd rs rt
  | sub rd rs rt => exact toNat_encR 0b001#3 rd rs rt
  | and rd rs rt => exact toNat_encR 0b010#3 rd rs rt
  | or rd rs rt => exact toNat_encR 0b011#3 rd rs rt
  | xor rd rs rt => exact toNat_encR 0b100#3 rd rs rt
  | shl rd rs rt => exact toNat_encR 0b101#3 rd rs rt
  | shr rd rs rt => exact toNat_encR 0b110#3 rd rs rt
  | nop => rfl
  | addi rd rs k => exact toNat_encI 0b001#3 k rd rs .r0
  | subi rd rs k => exact toNat_encI 0b010#3 k rd rs .r0
  | ld rd rs k => exact toNat_encI 0b011#3 k rd rs .r0
  | str rt rs k => exact toNat_encI 0b100#3 k .r0 rs rt
  | beq rs rt k => exact toNat_encJ 0b0#1 k rs rt
  | bne rs rt k => exact toNat_encJ 0b1#1 k rs rt
  | jext k => exact toNat_encX k

end

section
/-! PROOFS. Register writes (R22), the shifts (R106, R107), NOP (R108) and the laws of SUBI (R123). -/

namespace Sys2Proof

/-- The low six bits of the word are ignored (D7). -/
theorem decode_append_nop (j : Bool) (x : BitVec 6) : decode j (0b000#3 ++ 0b111#3 ++ x) = .ok .nop := by
  have hop : fieldOp (0b000#3 ++ 0b111#3 ++ x) = 0b000#3 :=
    (BitVec.extractLsb'_append_eq_of_le (by decide)).trans BitVec.extractLsb'_append_eq_left
  have hf : fieldF (0b000#3 ++ 0b111#3 ++ x) = 0b111#3 :=
    (BitVec.extractLsb'_append_eq_of_le (by decide)).trans BitVec.extractLsb'_append_eq_right
  rw [decode_of_fieldOp_eq_zero j hop, decodeR_eq_nop.mpr hf]

end Sys2Proof

namespace Sys2Proof.Machine

theorem exec_shl (rd rs rt : Reg) (s : State) :
    exec (.shl rd rs rt) s = execR (fun a b => shiftLeft a (shiftAmount b)) rd rs rt s := rfl

theorem exec_shr (rd rs rt : Reg) (s : State) :
    exec (.shr rd rs rt) s = execR (fun a b => shiftRight s.config.shrFill a (shiftAmount b)) rd rs rt s := rfl

theorem exec_nop (s : State) : exec .nop s = .next (s.setPc s.nextPc) := rfl

theorem shiftAmount_eq_mod (b : Word) : shiftAmount b = b.toNat % 16 := by
  unfold shiftAmount
  rw [BitVec.toNat_and]
  exact Nat.and_two_pow_sub_one_eq_mod b.toNat 4

theorem shiftLeft_eq_ofNat (a : Word) (n : Nat) : shiftLeft a n = BitVec.ofNat 12 (a.toNat * 2 ^ n) := by
  apply BitVec.eq_of_toNat_eq
  rw [shiftLeft, BitVec.toNat_shiftLeft, Nat.shiftLeft_eq, BitVec.toNat_ofNat]

/-- With zero fill the quotient is of the unsigned value. -/
theorem shiftRight_zero_eq_ofNat (a : Word) (n : Nat) :
    shiftRight .zero a n = BitVec.ofNat 12 (a.toNat / 2 ^ n) := by
  rw [← Nat.shiftRight_eq_div_pow, ← BitVec.toNat_ushiftRight, BitVec.ofNat_toNat, BitVec.setWidth_eq]
  rfl

/-- With copies of bit 11 the quotient is of the signed value, rounded down. -/
theorem shiftRight_sign_eq_ofInt (a : Word) (n : Nat) :
    shiftRight .sign a n = BitVec.ofInt 12 (a.toInt / 2 ^ n) := by
  have h := Int.shiftRight_eq_div_pow a.toInt n
  rw [Nat.cast_pow, Nat.cast_ofNat] at h
  rw [← h]
  rfl

/-- Negation commutes with the extension, but for -4, whose negation does not fit the field. -/
theorem sext3_neg : ∀ k : Imm3, k ≠ 0b100#3 → sext3 (-k) = -sext3 k := by decide

end Sys2Proof.Machine

open Sys2Proof Sys2Proof.Machine

/-- Settles O4, by the read after a write. -/
theorem registerReadAfterWrite : Obligations.RegisterReadAfterWrite := by
  intro s r v hr
  refine ⟨?_, fun q hq => State.reg_setReg_of_ne s v hq, State.setReg_pc s r v, State.setReg_imem s r v,
    State.setReg_dmem s r v, State.setReg_config s r v⟩
  rw [State.reg_setReg, if_neg hr, if_pos rfl]

/-- Settles O10: R69's row `101`, and a shift left as a product. -/
theorem shlInstruction : Obligations.ShlInstruction := by
  refine ⟨fun j => everyRTypeWordIsLegal j 0b101#3, fun rd rs rt s => ?_⟩
  rw [exec_shl, ← shiftAmount_eq_mod, ← shiftLeft_eq_ofNat]
  exact execR_registerResult _ rd rs rt s

/-- Settles O11: R69's row `110`, and a shift right as a quotient, unsigned or signed by the fill. -/
theorem shrInstruction : Obligations.ShrInstruction := by
  refine ⟨fun j => everyRTypeWordIsLegal j 0b110#3, fun rd rs rt s => ?_⟩
  rw [exec_shr, ← shiftAmount_eq_mod, ← shiftRight_zero_eq_ofNat, ← shiftRight_sign_eq_ofInt]
  cases s.config.shrFill with
  | zero => exact execR_registerResult _ rd rs rt s
  | sign => exact execR_registerResult _ rd rs rt s

/-- Settles O12: funct3 `111` alone makes the word a NOP, and its one assignment is to pc. -/
theorem nopInstruction : Obligations.NopInstruction :=
  ⟨decode_append_nop, fun s => ⟨_, exec_nop s, pcResult_setPc s _⟩⟩

/-- Settles O15: subtracting the extended field is adding its negation; the extension of -4 is subtracted as it is. -/
theorem subiIsAddiOfNegation : Obligations.SubiIsAddiOfNegation := by
  refine ⟨fun rd rs k s hk => ?_, fun rd rs s => ?_⟩
  · rw [exec_subi, exec_addi, execI, execI, sext3_neg k hk, BitVec.sub_eq_add_neg]
  · rw [show 4#12 = -sext3 0b100#3 from rfl, ← BitVec.sub_eq_add_neg, exec_subi]
    exact execI_registerResult _ rd rs _ s

end

section
/-! PROOFS. LD and STR (R130 to R135), a load after a store, and the stack idioms built of them (R165, R166). -/

namespace Sys2Proof.Machine

theorem exec_ld (rd rs : Reg) (k : Imm3) (s : State) :
    exec (.ld rd rs k) s = s.atData (s.ea rs k) (s.setReg rd (s.memRead (s.ea rs k))).advance := rfl

theorem exec_str (rt rs : Reg) (k : Imm3) (s : State) :
    exec (.str rt rs k) s = s.atData (s.ea rs k) (s.memWrite (s.ea rs k) (s.reg rt)).advance := rfl

theorem exec_ld_of_lt {s : State} {rs : Reg} {k : Imm3} (rd : Reg)
    (h : (s.ea rs k).toNat < s.config.dmemWords) :
    ∃ t, exec (.ld rd rs k) s = .next t ∧
      RegisterResult s t rd (s.dmem.read (s.ea rs k).toNat) (s.pc + 1#12) :=
  ⟨_, State.atData_of_lt _ h, registerResult_setReg_advance s rd _⟩

/-- A store followed by the advance of pc changes the word at the address and pc, and nothing else. -/
theorem storeResult_memWrite_advance (s : State) (ea v : Word) :
    StoreResult s (s.memWrite ea v).advance ea v := by
  refine ⟨?_, fun a ha => ?_, fun a => rfl, fun r => ?_, rfl, rfl⟩
  · rw [State.advance_dmem, State.memWrite_dmem, Memory.read_write_same]
  · rw [State.advance_dmem, State.memWrite_dmem, Memory.read_write_other _ _ ha]
  · rw [State.reg_advance, State.reg_memWrite]

theorem exec_str_of_lt {s : State} {rs : Reg} {k : Imm3} (rt : Reg)
    (h : (s.ea rs k).toNat < s.config.dmemWords) :
    ∃ t, exec (.str rt rs k) s = .next t ∧ StoreResult s t (s.ea rs k) (s.reg rt) :=
  ⟨_, State.atData_of_lt _ h, storeResult_memWrite_advance s _ _⟩

theorem exec_str_next {s t : State} {rt rs : Reg} {k : Imm3} (h : exec (.str rt rs k) s = .next t) :
    (s.ea rs k).toNat < s.config.dmemWords ∧ StoreResult s t (s.ea rs k) (s.reg rt) := by
  obtain ⟨hlt, rfl⟩ := State.atData_next.mp h
  exact ⟨hlt, storeResult_memWrite_advance s _ _⟩

/-- The effective address in the rules' arithmetic (R130). -/
theorem State.ofInt_eq_ea (s : State) (rs : Reg) (k : Imm3) :
    BitVec.ofInt 12 ((s.reg rs).toNat + k.toInt) = s.ea rs k :=
  ofInt_toNat_add_toInt (s.reg rs) k

@[simp] theorem State.ea_zero (s : State) (rs : Reg) : s.ea rs 0b000#3 = s.reg rs := BitVec.add_zero _

theorem execSeq_cons_of_next {i : Instr} {s t : State} (is : List Instr) (h : exec i s = .next t) :
    execSeq (i :: is) s = execSeq is t := by
  rw [execSeq, h]

theorem reg_of_registerResult {s t : State} {rd r : Reg} {v target : Word} (h : RegisterResult s t rd v target)
    (hr : r ≠ rd) : t.reg r = s.reg r := by
  rw [h.1, if_neg hr]
  cases r <;> rfl

/-- Push: the stack pointer goes down by one and the value is stored there (R165). -/
theorem execSeq_push {s : State} {rn : Reg} (hn : rn ≠ .r3)
    (hroom : (s.reg .r3 - 1#12).toNat < s.config.dmemWords) (is : List Instr) :
    ∃ t, execSeq (push rn ++ is) s = execSeq is t ∧
      (∀ r : Reg, t.reg r = if r = .r3 then s.reg .r3 - 1#12 else s.reg r) ∧
      t.dmem.read (s.reg .r3 - 1#12).toNat = s.reg rn ∧
      (∀ a : Nat, a ≠ (s.reg .r3 - 1#12).toNat → t.dmem.read a = s.dmem.read a) ∧
      t.pc = s.pc + 2#12 ∧ t.imem = s.imem ∧ t.config = s.config := by
  obtain ⟨u, hu, hresult⟩ := execI_registerResult (fun a c => a + c) .r3 .r3 0b111#3 s
  rw [← exec_addi] at hu
  have ⟨hureg, hupc, ⟨hudmem, _⟩, huconfig⟩ := hresult
  have hsp : u.reg .r3 = s.reg .r3 - 1#12 := by
    rw [hureg, if_neg (by decide), if_pos rfl, BitVec.sub_eq_add_neg]
    rfl
  rw [← hsp, ← huconfig, ← State.ea_zero] at hroom
  obtain ⟨t, ht, htword, htother, -, htreg, htpc, htconfig⟩ := exec_str_of_lt rn hroom
  rw [State.ea_zero, hsp] at htword htother
  refine ⟨t, ?_, fun r => ?_, htword.trans (reg_of_registerResult hresult hn),
    fun a ha => (htother a ha).trans (hudmem a), ?_, ?_, ?_⟩
  · exact (execSeq_cons_of_next _ hu).trans (execSeq_cons_of_next _ ht)
  · rw [htreg]
    split
    next h => rw [h, hsp]
    next h => exact reg_of_registerResult hresult h
  · rw [htpc, hupc, BitVec.add_assoc]
    rfl
  · exact (exec_keeps_imem_config ht).1.trans (exec_keeps_imem_config hu).1
  · exact htconfig.trans huconfig

/-- Pop: the word at the stack pointer is loaded and the stack pointer goes up by one (R166). -/
theorem execSeq_pop {s : State} {rm : Reg} (hm : rm ≠ .r3) (htop : (s.reg .r3).toNat < s.config.dmemWords) :
    ∃ t, execSeq (pop rm) s = .next t ∧
      (∀ r : Reg, t.reg r = if r = .r0 then 0x000#12 else if r = rm then s.dmem.read (s.reg .r3).toNat
        else if r = .r3 then s.reg .r3 + 1#12 else s.reg r) ∧
      (∀ a : Nat, t.dmem.read a = s.dmem.read a) ∧
      t.pc = s.pc + 2#12 ∧ t.imem = s.imem ∧ t.config = s.config := by
  rw [← State.ea_zero] at htop
  obtain ⟨u, hu, hureg, hupc, ⟨hudmem, -⟩, huconfig⟩ := exec_ld_of_lt rm htop
  obtain ⟨t, ht, htreg, htpc, ⟨htdmem, -⟩, htconfig⟩ :=
    execI_registerResult (fun a c => a + c) .r3 .r3 0b001#3 u
  rw [← exec_addi] at ht
  rw [State.ea_zero] at hureg
  have hsp : u.reg .r3 = s.reg .r3 := by
    rw [hureg, if_neg (by decide), if_neg (Ne.symm hm)]
  refine ⟨t, ?_, fun r => ?_, fun a => (htdmem a).trans (hudmem a), ?_, ?_, ?_⟩
  · exact (execSeq_cons_of_next _ hu).trans (execSeq_cons_of_next _ ht)
  · rw [htreg, hsp, hureg]
    by_cases h3 : r = .r3
    · subst h3
      simp only [if_neg (Ne.symm hm)]
      rfl
    · simp only [if_neg h3]
      split <;> rfl
  · rw [htpc, hupc, BitVec.add_assoc]
    rfl
  · exact (exec_keeps_imem_config ht).1.trans (exec_keeps_imem_config hu).1
  · exact htconfig.trans huconfig

end Sys2Proof.Machine

open Sys2Proof Sys2Proof.Machine

/-- Settles O16: the reserved bits decide the word, the data access the rest. -/
theorem ldInstruction : Obligations.LdInstruction := by
  refine ⟨decode_append_ld, fun rd rs k s ea hea => ?_⟩
  rw [hea, State.ofInt_eq_ea]
  exact ⟨exec_ld_of_lt rd, State.atData_of_ge _⟩

/-- Settles O17: the reserved bits decide the word, the data access the rest. -/
theorem strInstruction : Obligations.StrInstruction := by
  refine ⟨decode_append_str, fun rt rs k s ea hea => ?_⟩
  rw [hea, State.ofInt_eq_ea]
  exact ⟨exec_str_of_lt rt, State.atData_of_ge _⟩

/-- Settles O18: the access is made as for any destination, and the write to R0 leaves only the advance. -/
theorem loadIntoRegisterZero : Obligations.LoadIntoRegisterZero := by
  refine fun rs k s => ⟨fun hlt => ⟨s.advance, ?_, pcResult_setPc s _⟩, State.atData_of_ge _⟩
  rw [exec_ld, State.setReg_r0]
  exact State.atData_of_lt _ hlt

/-- Settles O19: the load's address exists because the store's did, and the word there is the one stored. -/
theorem loadAfterStore : Obligations.LoadAfterStore := by
  intro rt rs rd rb k l s t hstore hea
  obtain ⟨hlt, hword, -, -, -, -, hconfig⟩ := exec_str_next hstore
  have hea : t.ea rb l = s.ea rs k := hea
  rw [← hea, ← hconfig] at hlt
  rw [← hword, ← hea]
  exact exec_ld_of_lt rd hlt

/-- Settles O20: the push leaves the stack pointer at the word the pop loads. -/
theorem pushThenPop : Obligations.PushThenPop := by
  intro rn rm s hn hm hroom
  obtain ⟨u, hu, hureg, huword, huother, hupc, huimem, huconfig⟩ := execSeq_push hn hroom (pop rm)
  have hsp : u.reg .r3 = s.reg .r3 - 1#12 := (hureg .r3).trans (if_pos rfl)
  rw [← hsp, ← huconfig] at hroom
  obtain ⟨t, ht, htreg, htdmem, htpc, htimem, htconfig⟩ := execSeq_pop hm hroom
  refine ⟨t, hu.trans ht, fun r => ?_, (htdmem _).trans huword, fun a ha => (htdmem a).trans (huother a ha), ?_,
    htimem.trans huimem, htconfig.trans huconfig⟩
  · rw [htreg, hsp, huword, BitVec.sub_add_cancel, hureg r]
    by_cases h3 : r = .r3
    · simp [h3]
    · simp [h3]
  · rw [htpc, hupc, BitVec.add_assoc]
    rfl

end

section
/-! PROOFS. JEXT (R148), the corner cases of the branches (R142, R145), and pc after every instruction (R25 to R27). -/

namespace Sys2Proof.Machine

theorem exec_jext_of_enabled {s : State} (k : Off9) (h : s.config.jextEnabled = true) :
    exec (.jext k) s = .next (s.setPc (s.jumpTarget k)) := by
  rw [exec, execJext, if_pos h]

theorem exec_jext_of_absent {s : State} (k : Off9) (h : s.config.jextEnabled = false) :
    exec (.jext k) s = .fault (.illegalInstruction s.pc (encX k)) := by
  rw [exec, execJext, if_neg (Bool.eq_false_iff.mp h), encode]

theorem exec_jext_next {k : Off9} {s t : State} (h : exec (.jext k) s = .next t) :
    s.config.jextEnabled = true ∧ t = s.setPc (s.jumpTarget k) := by
  cases hj : s.config.jextEnabled with
  | true =>
    rw [exec_jext_of_enabled k hj] at h
    cases h
    exact ⟨rfl, rfl⟩
  | false =>
    rw [exec_jext_of_absent k hj] at h
    cases h

/-- The target of JEXT in the rules' arithmetic, from the address of JEXT itself (D11). -/
theorem State.ofInt_eq_jumpTarget (s : State) (k : Off9) :
    BitVec.ofInt 12 (s.pc.toNat + 1 + k.toInt) = s.jumpTarget k := by
  rw [BitVec.ofInt_add, BitVec.ofInt_add, BitVec.ofInt_natCast, BitVec.ofNat_toNat, BitVec.setWidth_eq]
  rfl

/-- Offset 0 leads to the next instruction, offset -1 back to the branch (R145). -/
theorem State.branchTarget_zero (s : State) : s.branchTarget 0b000#3 = s.pc + 1#12 := BitVec.add_zero _

theorem signExtend_inj {m n : Nat} (hmn : m ≤ n) {v u : BitVec m} : v.signExtend n = u.signExtend n ↔ v = u := by
  refine ⟨fun h => BitVec.eq_of_toInt_eq ?_, congrArg _⟩
  rw [← BitVec.toInt_signExtend_of_le hmn, h, BitVec.toInt_signExtend_of_le hmn]

/-- The way back from the next address is one word. -/
theorem add_one_add_eq_self {p x : Word} : p + 1#12 + x = p ↔ x = -1#12 := by
  rw [BitVec.add_assoc, add_eq_left, add_eq_zero_iff_neg_eq, eq_comm]

theorem State.branchTarget_eq_pc {s : State} {k : Imm3} : s.branchTarget k = s.pc ↔ k = 0b111#3 :=
  add_one_add_eq_self.trans (signExtend_inj (u := 0b111#3) (by decide))

theorem State.jumpTarget_eq_pc {s : State} {k : Off9} : s.jumpTarget k = s.pc ↔ k = 0x1FF#9 :=
  add_one_add_eq_self.trans (signExtend_inj (u := 0x1FF#9) (by decide))

theorem State.nextPc_ne_pc (s : State) : s.nextPc ≠ s.pc := by
  rw [State.nextPc, Ne, add_eq_left]
  decide

theorem State.setPc_pc_self (s : State) : s.setPc s.pc = s := rfl

end Sys2Proof.Machine

open Sys2Proof Sys2Proof.Machine

/-- Settles O25: a register does not differ from itself. -/
theorem bneOfSameRegisterNeverTaken : Obligations.BneOfSameRegisterNeverTaken := by
  refine fun r k s => ⟨_, exec_bne r r k s, ?_⟩
  rw [if_neg (not_not_intro rfl)]
  exact pcResult_setPc s _

/-- Settles O26: with offset 0 both ways lead to the next instruction, with offset -1 the target is pc itself. -/
theorem branchOffsetsZeroAndMinusOne : Obligations.BranchOffsetsZeroAndMinusOne := by
  refine ⟨fun rs rt s => ⟨?_, ?_⟩, fun rs rt s heq => ?_, fun rs rt s hne => ?_⟩
  · rw [exec_beq, State.branchTarget_zero, ← State.nextPc, ite_self]
    rfl
  · rw [exec_bne, State.branchTarget_zero, ← State.nextPc, ite_self]
    rfl
  · rw [exec_beq, if_pos heq, State.branchTarget_eq_pc.mpr rfl, State.setPc_pc_self]
  · rw [exec_bne, if_pos hne, State.branchTarget_eq_pc.mpr rfl, State.setPc_pc_self]

/-- Settles O27: the word is JEXT on a machine that has it, and its one assignment is to pc. -/
theorem jextInstruction : Obligations.JextInstruction := by
  refine ⟨fun k => decode_encX true k, fun k s hj => ?_⟩
  rw [State.ofInt_eq_jumpTarget]
  exact ⟨_, exec_jext_of_enabled k hj, pcResult_setPc s _⟩

/-- Settles O28: on a machine without JEXT neither the decoder nor `exec` goes on. -/
theorem jextAbsentIsIllegal : Obligations.JextAbsentIsIllegal :=
  ⟨fun k => decode_encX false k, fun k _ hj => exec_jext_of_absent k hj⟩

/-- Settles O29: an instruction with a destination advances, as STR and NOP do; the others are control transfers. -/
theorem nextPcOfEachInstruction : Obligations.NextPcOfEachInstruction := by
  intro i s t h
  cases i with
  | add | sub | and | or | xor | shl | shr | addi | subi | ld =>
    obtain ⟨v, rfl⟩ := exec_next_of_destination rfl h
    rw [State.advance_pc, State.setReg_nextPc, State.nextPc]
  | nop =>
    cases h
    rfl
  | str rt rs k =>
    obtain ⟨-, -, -, -, -, hpc, -⟩ := exec_str_next h
    exact hpc
  | beq rs rt k =>
    rw [exec_beq] at h
    cases h
    rfl
  | bne rs rt k =>
    rw [exec_bne] at h
    cases h
    rw [State.setPc_pc, ite_not]
    rfl
  | jext k =>
    obtain ⟨-, rfl⟩ := exec_jext_next h
    rfl

/-- Settles O31: each result by addition modulo 4096 at the value given. -/
theorem addressesWrap : Obligations.AddressesWrap := by
  refine ⟨fun s hpc => ⟨_, exec_nop s, ?_⟩, fun s hpc => ⟨_, exec_beq .r0 .r0 _ s, ?_⟩,
    fun s hpc => ⟨_, exec_beq .r0 .r0 _ s, ?_⟩, fun s r hr => ?_, fun s r hr => ?_⟩
  · rw [State.setPc_pc, State.nextPc, hpc]
    rfl
  · rw [if_pos rfl, State.setPc_pc, State.branchTarget_eq, hpc]
    rfl
  · rw [if_pos rfl, State.setPc_pc, State.branchTarget_eq, hpc]
    rfl
  · rw [State.ea, hr]
    rfl
  · rw [State.ea, hr]
    rfl

end

section
/-! PROOFS. One step (R11) and its faults (R182 to R185), where it can go (R27), and where it stays (R205). -/

namespace Sys2Proof.Machine

/-- An instruction goes on, or it is a data access beyond the memory, or JEXT where it does not exist. -/
theorem exec_next_or_fault (i : Instr) (s : State) :
    (∃ t, exec i s = .next t) ∨
    (∃ rd rs k, i = .ld rd rs k ∧ s.config.dmemWords ≤ (s.ea rs k).toNat ∧
      exec i s = .fault (.dataAddressOutOfRange s.pc (s.ea rs k))) ∨
    (∃ rt rs k, i = .str rt rs k ∧ s.config.dmemWords ≤ (s.ea rs k).toNat ∧
      exec i s = .fault (.dataAddressOutOfRange s.pc (s.ea rs k))) ∨
    (∃ k, i = .jext k ∧ s.config.jextEnabled = false ∧ exec i s = .fault (.illegalInstruction s.pc (encX k))) := by
  cases i with
  | ld rd rs k =>
    obtain hlt | hge := lt_or_ge (s.ea rs k).toNat s.config.dmemWords
    · exact .inl ⟨_, State.atData_of_lt _ hlt⟩
    · exact .inr (.inl ⟨rd, rs, k, rfl, hge, State.atData_of_ge _ hge⟩)
  | str rt rs k =>
    obtain hlt | hge := lt_or_ge (s.ea rs k).toNat s.config.dmemWords
    · exact .inl ⟨_, State.atData_of_lt _ hlt⟩
    · exact .inr (.inr (.inl ⟨rt, rs, k, rfl, hge, State.atData_of_ge _ hge⟩))
  | jext k =>
    cases hj : s.config.jextEnabled with
    | true => exact .inl ⟨_, exec_jext_of_enabled k hj⟩
    | false => exact .inr (.inr (.inr ⟨k, rfl, rfl, exec_jext_of_absent k hj⟩))
  | _ => exact .inl ⟨_, rfl⟩

/-- Every instruction has a meaning. -/
theorem exec_ne_refused (i : Instr) (s : State) (r : Refusal) : exec i s ≠ .refused r := by
  intro h
  obtain ⟨t, ht⟩ | ⟨_, _, _, -, -, hf⟩ | ⟨_, _, _, -, -, hf⟩ | ⟨_, -, -, hf⟩ := exec_next_or_fault i s
  · cases ht.symm.trans h
  · cases hf.symm.trans h
  · cases hf.symm.trans h
  · cases hf.symm.trans h

/-- A JEXT that was decoded exists on the machine (R73). -/
theorem jextEnabled_of_decode {j : Bool} {w : Word} {k : Off9} (h : decode j w = .ok (.jext k)) : j = true := by
  obtain ⟨heq, -⟩ | ⟨-, rfl⟩ := encode_of_decode h
  · cases heq
  · cases j with
    | true => rfl
    | false => cases (decode_encX false k).symm.trans h

/-- A decoded instruction on a machine with a full data memory goes on. -/
theorem exec_next_of_decode {s : State} {w : Word} {i : Instr} (hfull : s.config.dmemWords = 4096)
    (h : decode s.config.jextEnabled w = .ok i) : ∃ t, exec i s = .next t := by
  obtain ht | ⟨_, rs, k, -, hge, -⟩ | ⟨_, rs, k, -, hge, -⟩ | ⟨k, rfl, hj, -⟩ := exec_next_or_fault i s
  · exact ht
  · have hlt := (s.ea rs k).isLt
    omega
  · have hlt := (s.ea rs k).isLt
    omega
  · cases hj.symm.trans (jextEnabled_of_decode h)

theorem step_of_decode_ok {s : State} {w : Word} {i : Instr} (hw : s.Fetches w)
    (hi : decode s.config.jextEnabled w = .ok i) : step s = exec i s := by
  simp only [step, State.fetch_eq_some.mpr hw, hi]

theorem step_of_decode_error {s : State} {w : Word} {e : Illegal} (hw : s.Fetches w)
    (he : decode s.config.jextEnabled w = .error e) : step s = .fault (.illegalInstruction s.pc w) := by
  simp only [step, State.fetch_eq_some.mpr hw, he]

theorem step_of_fetch_none {s : State} (h : s.config.imemWords ≤ s.pc.toNat) :
    step s = .fault (.fetchOutOfRange s.pc) := by
  simp only [step, State.fetch_eq_none.mpr h]

/-- An instruction that gives the very same state is a taken branch with offset -1, or JEXT -1. -/
theorem exec_eq_next_self {i : Instr} {s : State} (h : exec i s = .next s) :
    (∃ rs rt, i = .beq rs rt 0b111#3 ∧ s.reg rs = s.reg rt) ∨
    (∃ rs rt, i = .bne rs rt 0b111#3 ∧ s.reg rs ≠ s.reg rt) ∨ i = .jext 0x1FF#9 := by
  have hpc := nextPcOfEachInstruction i s s h
  have hnext : s.pc ≠ s.pc + 1#12 := (State.nextPc_ne_pc s).symm
  cases i with
  | beq rs rt k =>
    by_cases heq : s.reg rs = s.reg rt
    · obtain rfl := State.branchTarget_eq_pc.mp (hpc.trans (if_pos heq)).symm
      exact .inl ⟨rs, rt, rfl, heq⟩
    · exact absurd (hpc.trans (if_neg heq)) hnext
  | bne rs rt k =>
    by_cases heq : s.reg rs = s.reg rt
    · exact absurd (hpc.trans (if_pos heq)) hnext
    · obtain rfl := State.branchTarget_eq_pc.mp (hpc.trans (if_neg heq)).symm
      exact .inr (.inl ⟨rs, rt, rfl, heq⟩)
  | jext k =>
    obtain rfl := State.jumpTarget_eq_pc.mp hpc.symm
    exact .inr (.inr rfl)
  | _ => exact absurd hpc hnext

theorem fieldOp_encJ (c : BitVec 1) (k : Imm3) (rs rt : Reg) : fieldOp (encJ c k rs rt) = 0b101#3 := by
  rw [encJ, append_cond_pad, fieldOp_append]

theorem fieldF_encJ (c : BitVec 1) (k : Imm3) (rs rt : Reg) : fieldF (encJ c k rs rt) = k := by
  rw [encJ, append_cond_pad, fieldF_append]

/-- Where an instruction that goes on leads, by the fields of the word it was decoded from. -/
theorem pc_of_decode {j : Bool} {s t : State} {w : Word} {i : Instr} (hi : decode j w = .ok i)
    (h : exec i s = .next t) :
    t.pc = s.pc + 1#12 ∨ (fieldOp w = 0b101#3 ∧ t.pc = s.pc + 1#12 + sext3 (fieldF w)) ∨
    (fieldOp w = 0b111#3 ∧ j = true ∧ t.pc = s.pc + 1#12 + sext9 (fieldOff9 w)) := by
  have hpc := nextPcOfEachInstruction i s t h
  obtain ⟨rfl, -, -⟩ | ⟨-, rfl⟩ := encode_of_decode hi
  · exact .inl hpc
  cases i with
  | beq rs rt k =>
    rw [encode, fieldOp_encJ, fieldF_encJ]
    by_cases heq : s.reg rs = s.reg rt
    · exact .inr (.inl ⟨rfl, hpc.trans (if_pos heq)⟩)
    · exact .inl (hpc.trans (if_neg heq))
  | bne rs rt k =>
    rw [encode, fieldOp_encJ, fieldF_encJ]
    by_cases heq : s.reg rs = s.reg rt
    · exact .inl (hpc.trans (if_pos heq))
    · exact .inr (.inl ⟨rfl, hpc.trans (if_neg heq)⟩)
  | jext k =>
    have hj := jextEnabled_of_decode hi
    rw [encode, fieldOp_encX, fieldOff9_encX]
    exact .inr (.inr ⟨rfl, hj, hpc⟩)
  | _ => exact .inl hpc

end Sys2Proof.Machine

open Sys2Proof Sys2Proof.Machine

/-- Settles O32: fetch and decode have their answer, and nothing is left but the execution. -/
theorem stepRunsDecodedInstruction : Obligations.StepRunsDecodedInstruction :=
  fun _ _ _ hw hi => step_of_decode_ok hw hi

/-- Settles O33, by the decoder's rejection. -/
theorem illegalWordFaults : Obligations.IllegalWordFaults :=
  fun _ _ _ hw he => step_of_decode_error hw he

/-- Settles O34: the fetch gives no word. -/
theorem fetchBeyondMemoryFaults : Obligations.FetchBeyondMemoryFaults :=
  fun _ h => step_of_fetch_none h

/-- Settles O35: of the four outcomes of an instruction three are faults, each with its payload. -/
theorem onlyTheseInstructionFaults : Obligations.OnlyTheseInstructionFaults := by
  intro i s f h
  obtain ⟨t, ht⟩ | ⟨rd, rs, k, hi, hge, hf⟩ | ⟨rt, rs, k, hi, hge, hf⟩ | ⟨k, hi, hj, hf⟩ := exec_next_or_fault i s
  · cases ht.symm.trans h
  · exact .inl ⟨rd, rs, k, hi, hge, Host.Outcome.fault.inj (h.symm.trans hf)⟩
  · exact .inr (.inl ⟨rt, rs, k, hi, hge, Host.Outcome.fault.inj (h.symm.trans hf)⟩)
  · exact .inr (.inr ⟨k, hi, hj, Host.Outcome.fault.inj (h.symm.trans hf)⟩)

/-- Settles O36: a full memory has every pc and every effective address, so only the decoder can stop the step. -/
theorem fullMemoriesLeaveOnlyIllegalWords : Obligations.FullMemoriesLeaveOnlyIllegalWords := by
  intro s himem hdmem
  have hw : s.Fetches (s.imem.read s.pc.toNat) := ⟨himem ▸ s.pc.isLt, rfl⟩
  split
  next i hi =>
    rw [step_of_decode_ok hw hi]
    exact exec_next_of_decode hdmem hi
  next e he => exact step_of_decode_error hw he

/-- Settles O37: a step ends in a fetch fault, in a decode fault, or as its instruction does. -/
theorem noStepIsRefused : Obligations.NoStepIsRefused := by
  intro s r h
  unfold step at h
  split at h
  · cases h
  · split at h
    · cases h
    · exact exec_ne_refused _ s r h

/-- Settles O38: a step to the same state executes an instruction that does not move pc, and those are the three. -/
theorem terminalStatesAreSelfLoops : Obligations.TerminalStatesAreSelfLoops := by
  obtain ⟨-, hbeq, hbne⟩ := branchOffsetsZeroAndMinusOne
  refine fun s => ⟨fun h => ?_, ?_⟩
  · obtain ⟨w, i, hw, hi, hexec⟩ := step_next_cases h
    obtain ⟨rs, rt, rfl, heq⟩ | ⟨rs, rt, rfl, hne⟩ | rfl := exec_eq_next_self hexec
    · exact ⟨w, hw, .inl ⟨rs, rt, hi, heq⟩⟩
    · exact ⟨w, hw, .inr (.inl ⟨rs, rt, hi, hne⟩)⟩
    · exact ⟨w, hw, .inr (.inr hi)⟩
  · rintro ⟨w, hw, ⟨rs, rt, hi, heq⟩ | ⟨rs, rt, hi, hne⟩ | hi⟩
    · exact (step_of_decode_ok hw hi).trans (hbeq rs rt s heq)
    · exact (step_of_decode_ok hw hi).trans (hbne rs rt s hne)
    · rw [State.Terminal, step_of_decode_ok hw hi, exec_jext_of_enabled _ (jextEnabled_of_decode hi),
        State.jumpTarget_eq_pc.mpr rfl, State.setPc_pc_self]

/-- Settles O30: the step executes the decoded instruction, whose fields are the word's. -/
theorem atMostTwoSuccessors : Obligations.AtMostTwoSuccessors := by
  intro s t w hw h
  obtain ⟨w', i, hw', hi, hexec⟩ := step_next_cases h
  obtain rfl : w = w' := hw.2.symm.trans hw'.2
  exact pc_of_decode hi hexec

end

section
/-! PROOFS. What an instruction depends on: the data memory (R42) and the registers it reads (R23). -/

namespace Sys2Proof.Machine

theorem State.setReg_advance_setDmem (s : State) (rd : Reg) (v : Word) (m : Memory) :
    ((s.setDmem m).setReg rd v).advance = (s.setReg rd v).advance.setDmem m := by
  cases rd <;> rfl

theorem execR_setDmem (f : Word → Word → Word) (rd rs rt : Reg) (s : State) (m : Memory) :
    execR f rd rs rt (s.setDmem m) = .next ((s.setReg rd (f (s.reg rs) (s.reg rt))).advance.setDmem m) := by
  rw [execR, State.reg_setDmem, State.reg_setDmem, State.setReg_advance_setDmem]

theorem execI_setDmem (f : Word → Word → Word) (rd rs : Reg) (k : Imm3) (s : State) (m : Memory) :
    execI f rd rs k (s.setDmem m) = .next ((s.setReg rd (f (s.reg rs) (sext3 k))).advance.setDmem m) := by
  rw [execI, State.reg_setDmem, State.setReg_advance_setDmem]

/-- An instruction that is neither LD nor STR does the same over any data memory. -/
theorem exec_setDmem {i : Instr} {s t : State} (hi : isDataAccess i = false) (h : exec i s = .next t) (m : Memory) :
    exec i (s.setDmem m) = .next (t.setDmem m) := by
  cases i with
  | add rd rs rt | sub rd rs rt | and rd rs rt | or rd rs rt | xor rd rs rt =>
    cases h
    exact execR_setDmem _ rd rs rt s m
  | shl rd rs rt =>
    cases h
    exact (exec_shl rd rs rt _).trans (execR_setDmem _ rd rs rt s m)
  | shr rd rs rt =>
    cases h
    exact (exec_shr rd rs rt _).trans (execR_setDmem _ rd rs rt s m)
  | addi rd rs k | subi rd rs k =>
    cases h
    exact execI_setDmem _ rd rs k s m
  | nop =>
    cases h
    rfl
  | ld rd rs k | str rt rs k => cases hi
  | beq rs rt k =>
    rw [exec_beq] at h ⊢
    cases h
    rw [State.reg_setDmem, State.reg_setDmem]
    rfl
  | bne rs rt k =>
    rw [exec_bne] at h ⊢
    cases h
    rw [State.reg_setDmem, State.reg_setDmem]
    rfl
  | jext k =>
    obtain ⟨hj, rfl⟩ := exec_jext_next h
    exact exec_jext_of_enabled k hj

/-- LD does the same over any data memory with the same word at its effective address. -/
theorem exec_ld_setDmem {rd rs : Reg} {k : Imm3} {s t : State} {m : Memory} (h : exec (.ld rd rs k) s = .next t)
    (hm : m.read (s.ea rs k).toNat = s.dmem.read (s.ea rs k).toNat) :
    exec (.ld rd rs k) (s.setDmem m) = .next (t.setDmem m) := by
  obtain ⟨hlt, rfl⟩ := State.atData_next.mp h
  have hea : (s.setDmem m).ea rs k = s.ea rs k := by rw [State.ea, State.reg_setDmem, ← State.ea]
  rw [exec_ld, hea, State.memRead, State.setDmem_dmem, hm, State.setReg_advance_setDmem]
  exact State.atData_of_lt _ hlt

/-- `t` and `v` have the same pc, data memory and parameters, and the same value in the register `d`, if it is one. -/
def AgreeOn (d : Option Reg) (t v : State) : Prop :=
  v.pc = t.pc ∧ v.dmem = t.dmem ∧ v.config = t.config ∧ ∀ r : Reg, d = some r → v.reg r = t.reg r

theorem agreeOn_setPc {s u : State} (hdmem : u.dmem = s.dmem) (hconfig : u.config = s.config) (p : Word) :
    AgreeOn none (s.setPc p) (u.setPc p) :=
  ⟨rfl, hdmem, hconfig, nofun⟩

section
variable {s u : State} (hpc : u.pc = s.pc) (hdmem : u.dmem = s.dmem) (hconfig : u.config = s.config)
include hpc hdmem hconfig

theorem agreeOn_setReg_advance (rd : Reg) (v : Word) :
    AgreeOn (some rd) (s.setReg rd v).advance (u.setReg rd v).advance := by
  refine ⟨?_, ?_, ?_, fun r hr => ?_⟩
  · simp [State.nextPc, hpc]
  · simp [hdmem]
  · simp [hconfig]
  · cases hr
    rw [State.reg_advance, State.reg_advance, State.reg_setReg, State.reg_setReg, if_pos rfl, if_pos rfl]

theorem agreeOn_memWrite_advance (ea v : Word) :
    AgreeOn none (s.memWrite ea v).advance (u.memWrite ea v).advance := by
  refine ⟨?_, ?_, ?_, nofun⟩
  · simp [State.nextPc, hpc]
  · simp [hdmem]
  · simp [hconfig]

theorem execR_agrees {f : Word → Word → Word} {rd rs rt : Reg} {t : State}
    (hsrc : ∀ r ∈ [rs, rt], u.reg r = s.reg r) (h : execR f rd rs rt s = .next t) :
    ∃ v, execR f rd rs rt u = .next v ∧ AgreeOn (some rd) t v := by
  cases h
  rw [execR, hsrc rs (by simp), hsrc rt (by simp)]
  exact ⟨_, rfl, agreeOn_setReg_advance hpc hdmem hconfig rd _⟩

theorem execI_agrees {f : Word → Word → Word} {rd rs : Reg} {k : Imm3} {t : State}
    (hsrc : ∀ r ∈ [rs], u.reg r = s.reg r) (h : execI f rd rs k s = .next t) :
    ∃ v, execI f rd rs k u = .next v ∧ AgreeOn (some rd) t v := by
  cases h
  rw [execI, hsrc rs (by simp)]
  exact ⟨_, rfl, agreeOn_setReg_advance hpc hdmem hconfig rd _⟩

/-- States that agree on what an instruction reads go on alike. -/
theorem exec_agrees {i : Instr} {t : State} (hsrc : ∀ r ∈ sources i, u.reg r = s.reg r) (h : exec i s = .next t) :
    ∃ v, exec i u = .next v ∧ AgreeOn (destination i) t v := by
  have hnext : u.nextPc = s.nextPc := by rw [State.nextPc, hpc, ← State.nextPc]
  have hea : ∀ rs ∈ sources i, ∀ k, u.ea rs k = s.ea rs k := fun rs hrs k => by
    rw [State.ea, hsrc rs hrs, ← State.ea]
  cases i with
  | add | sub | and | or | xor => exact execR_agrees hpc hdmem hconfig hsrc h
  | shl rd rs rt =>
    rw [exec_shl] at h ⊢
    exact execR_agrees hpc hdmem hconfig hsrc h
  | shr rd rs rt =>
    rw [exec_shr] at h ⊢
    rw [hconfig]
    exact execR_agrees hpc hdmem hconfig hsrc h
  | addi | subi => exact execI_agrees hpc hdmem hconfig hsrc h
  | nop =>
    cases h
    rw [exec_nop, hnext]
    exact ⟨_, rfl, agreeOn_setPc hdmem hconfig _⟩
  | ld rd rs k =>
    obtain ⟨hlt, rfl⟩ := State.atData_next.mp h
    rw [exec_ld, hea rs (by simp [sources]), State.memRead, hdmem]
    exact ⟨_, State.atData_of_lt _ (hconfig ▸ hlt), agreeOn_setReg_advance hpc hdmem hconfig rd _⟩
  | str rt rs k =>
    obtain ⟨hlt, rfl⟩ := State.atData_next.mp h
    rw [exec_str, hea rs (by simp [sources]), hsrc rt (by simp [sources])]
    exact ⟨_, State.atData_of_lt _ (hconfig ▸ hlt), agreeOn_memWrite_advance hpc hdmem hconfig _ _⟩
  | beq rs rt k =>
    rw [exec_beq] at h ⊢
    cases h
    rw [hsrc rs (by simp [sources]), hsrc rt (by simp [sources]), State.branchTarget, hnext]
    exact ⟨_, rfl, agreeOn_setPc hdmem hconfig _⟩
  | bne rs rt k =>
    rw [exec_bne] at h ⊢
    cases h
    rw [hsrc rs (by simp [sources]), hsrc rt (by simp [sources]), State.branchTarget, hnext]
    exact ⟨_, rfl, agreeOn_setPc hdmem hconfig _⟩
  | jext k =>
    obtain ⟨hj, rfl⟩ := exec_jext_next h
    rw [exec_jext_of_enabled k (hconfig ▸ hj), State.jumpTarget, hnext]
    exact ⟨_, rfl, agreeOn_setPc hdmem hconfig _⟩

end

end Sys2Proof.Machine

open Sys2Proof Sys2Proof.Machine

/-- Settles O40: the write frame from the one store, the read frame over a replaced data memory. -/
theorem dataMemoryReachedOnlyByLoadAndStore : Obligations.DataMemoryReachedOnlyByLoadAndStore := by
  refine ⟨fun i s t h hstore a => ?_, fun rt rs k s t h a ha => ?_, fun i s t m hi h => exec_setDmem hi h m,
    fun rd rs k s t m h hm => exec_ld_setDmem h hm⟩
  · obtain ⟨-, hdmem⟩ | ⟨rt, rs, k, rfl, -⟩ := exec_next_dmem h
    · rw [hdmem]
    · cases hstore
  · obtain ⟨-, -, hother, -⟩ := exec_str_next h
    exact hother a ha

/-- Settles O42, by the registers each instruction reads. -/
theorem resultDependsOnlyOnSources : Obligations.ResultDependsOnlyOnSources :=
  fun _ _ _ _ hsrc hpc hdmem hconfig h => exec_agrees hpc hdmem hconfig hsrc h

end

section
/-! PROOFS. The canonical form of a memory (log entry 4), the launch (R200 to R202) and the placed word (R209). -/

namespace Sys2Proof.Machine

/-- A canonical memory lists exactly the words it does not read as 0. -/
theorem Memory.mem_iff_read {m : Memory} (h : m.wf) {a : Nat} {v : Word} :
    (a, v) ∈ m ↔ m.read a = v ∧ v ≠ 0x000#12 := by
  induction m with
  | nil => exact ⟨nofun, fun ⟨hread, hne⟩ => absurd hread.symm hne⟩
  | cons c m ih =>
    obtain ⟨b, u⟩ := c
    obtain ⟨hsorted, hne⟩ := h
    obtain ⟨hb, hm⟩ := List.pairwise_cons.mp hsorted
    obtain ⟨hu, hne⟩ := List.forall_mem_cons.mp hne
    have ih := ih ⟨hm, hne⟩
    by_cases hba : b = a
    · subst hba
      have hlacks : (b, v) ∉ m := fun hmem => lt_irrefl b (hb _ hmem)
      rw [List.mem_cons, or_iff_left hlacks, Memory.read, if_pos rfl, Prod.mk.injEq]
      constructor
      · rintro ⟨-, rfl⟩
        exact ⟨rfl, hu⟩
      · rintro ⟨rfl, -⟩
        exact ⟨rfl, rfl⟩
    · rw [Memory.read, if_neg hba, ← ih]
      simp [Ne.symm hba]

theorem Memory.nodup_of_wf {m : Memory} (h : m.wf) : m.Nodup := by
  refine List.Pairwise.imp (S := (· ≠ ·)) ?_ h.1
  rintro c d hlt rfl
  exact lt_irrefl _ hlt

theorem Memory.read_ofWords {ws : List Word} {base k : Nat} {w : Word} (h : ws[k]? = some w) :
    (Memory.ofWords base ws).read (base + k) = w := by
  induction ws generalizing base k with
  | nil => cases h
  | cons u ws ih =>
    cases k with
    | zero =>
      obtain rfl : u = w := Option.some.inj h
      exact Memory.read_write_same _ _ _
    | succ k =>
      have hnext : base + (k + 1) = base + 1 + k := by omega
      rw [Memory.ofWords, Memory.read_write_other _ _ (by omega), hnext]
      exact ih h

/-- JEXT_ENABLED matters to words of opcode `111` alone (R73). -/
theorem decode_congr_of_fieldOp_ne {j l : Bool} {w : Word} (h : fieldOp w ≠ 0b111#3) : decode j w = decode l w := by
  rcases threeBits_cases (fieldOp w) with hop | hop | hop | hop | hop | hop | hop | hop
  case inr.inr.inr.inr.inr.inr.inr => exact absurd hop h
  all_goals simp [decode, hop]

theorem decode_of_decodeTableWord {nbits w : Nat} {i : Instr} (h : decodeTableWord nbits w = some i) :
    decode true (BitVec.ofNat 12 w) = .ok i := by
  unfold decodeTableWord at h
  split at h
  · cases hd : decode true (BitVec.ofNat 12 w) with
    | ok k =>
      rw [hd] at h
      exact congrArg _ (Option.some.inj h)
    | error e =>
      rw [hd] at h
      cases h
  · cases h

theorem State.withFetchWord_fetches {s : State} (nbits w : Nat) (h : s.pc.toNat < s.config.imemWords) :
    (s.withFetchWord nbits w).Fetches (BitVec.ofNat 12 w) :=
  ⟨h, Memory.read_write_same _ _ _⟩

/-- The machine with the word placed has every instruction the opcode table reads in it (log entry 6). -/
theorem State.decode_withFetchWord (s : State) (nbits w : Nat) :
    decode (s.withFetchWord nbits w).config.jextEnabled (BitVec.ofNat 12 w) = decode true (BitVec.ofNat 12 w) := by
  by_cases hop : fieldOp (BitVec.ofNat 12 w) = 0b111#3
  · simp [State.withFetchWord, hop]
  · exact decode_congr_of_fieldOp_ne hop

end Sys2Proof.Machine

open Sys2Proof Sys2Proof.Machine

/-- Settles O46: memories that read the same list the same words, and rising addresses leave one order. -/
theorem canonicalMemoriesEqual : Obligations.CanonicalMemoriesEqual := by
  intro m n hm hn hread
  have hperm : m.Perm n := by
    refine (List.perm_ext_iff_of_nodup (Memory.nodup_of_wf hm) (Memory.nodup_of_wf hn)).mpr fun ⟨a, v⟩ => ?_
    rw [Memory.mem_iff_read hm, Memory.mem_iff_read hn, hread]
  exact hperm.eq_of_pairwise (fun c d _ _ hcd hdc => absurd hcd (lt_asymm hdc)) hm.1 hn.1

/-- Settles O47, by evaluation of the launch with nothing placed. -/
theorem resetState : Obligations.ResetState :=
  ⟨rfl, fun r => by cases r <;> rfl, fun _ => rfl, fun _ => rfl, rfl, rfl, rfl, rfl⟩

/-- Settles O48: the fields by definition, the words by what a placed list reads as. -/
theorem launchPlacesItsParameters : Obligations.LaunchPlacesItsParameters := by
  rintro c x1 x2 x3 program data p d s rfl
  exact ⟨rfl, rfl, rfl, rfl, rfl, rfl, fun _ _ h => Memory.read_ofWords h, fun _ _ h => Memory.read_ofWords h⟩

/-- Settles O57: the word is fetched where it was placed, and decodes there as in the opcode table. -/
theorem placedWordRuns : Obligations.PlacedWordRuns := by
  intro s nbits w i hpc h
  refine ⟨step_of_decode_ok (State.withFetchWord_fetches nbits w hpc) ?_, fun r => ?_, rfl, rfl⟩
  · rw [State.decode_withFetchWord]
    exact decode_of_decodeTableWord h
  · cases r <;> rfl

end

section
/-! PROOFS. The assembler's operands (R66, R79): the range of a field, and the offset put for a label (D19). -/

namespace Sys2Proof.Machine

theorem imm3Of_isSome {k : Int} : (imm3Of k).isSome = true ↔ -4 ≤ k ∧ k ≤ 3 := by
  unfold imm3Of
  split <;> simp [*]

theorem toInt_of_imm3Of {k : Int} {v : Imm3} (h : imm3Of k = some v) : v.toInt = k := by
  obtain ⟨hlow, hhigh⟩ := imm3Of_isSome.mp (Option.isSome_of_eq_some h)
  rw [imm3Of, if_pos ⟨hlow, hhigh⟩] at h
  cases h
  exact BitVec.toInt_ofInt_eq_self (by decide) hlow (Int.lt_add_one_of_le hhigh)

/-- From the branch's address, the label's offset leads to the label's address. -/
theorem branchTarget_of_labelOffset {label branch : Nat} {k : Imm3} {s : State} (hk : labelOffset label branch = some k)
    (hpc : s.pc = BitVec.ofNat 12 branch) : s.branchTarget k = BitVec.ofNat 12 label := by
  have hoffset : k.toInt = (label : Int) - (branch + 1) := toInt_of_imm3Of hk
  have hsum : (label : Int) = (branch + 1 : Nat) + k.toInt := by
    rw [hoffset]
    omega
  calc s.branchTarget k
    _ = BitVec.ofNat 12 branch + 1#12 + sext3 k := by rw [State.branchTarget_eq, hpc]
    _ = BitVec.ofInt 12 ((branch + 1 : Nat) + k.toInt) := by
      rw [BitVec.ofInt_add, BitVec.ofInt_natCast, BitVec.ofNat_add, ofInt_toInt_eq_sext3]
    _ = BitVec.ofNat 12 label := by rw [← hsum, BitVec.ofInt_natCast]

end Sys2Proof.Machine

open Sys2Proof Sys2Proof.Machine

/-- Settles O58: inside the range the field's signed value is the operand's. -/
theorem immediateRangeIsRefused : Obligations.ImmediateRangeIsRefused :=
  ⟨fun _ => imm3Of_isSome, fun _ _ h => toInt_of_imm3Of h⟩

/-- Settles O59: R0 equals itself, so the branch is taken, and its target is the label. -/
theorem labelOffsetReachesLabel : Obligations.LabelOffsetReachesLabel := by
  intro label branch k s hk hpc
  refine ⟨_, exec_beq .r0 .r0 k s, ?_⟩
  rw [if_pos rfl, branchTarget_of_labelOffset hk hpc]
  exact pcResult_setPc s _

end
